-- ==== Sys2Proof/Word.lean ====
section
/-! DEFINITION. The widths of DHT11DEC: one name per kind of word that spec/10_state.md (R10) and
spec/30_encoding.md (R47) number bit by bit. Everything is unsigned (00_scope.md section 5). -/

namespace Sys2Proof

/-- The dispatch word `dw`, 10 bits (R47). -/
abbrev DispatchWord := BitVec 10

/-- A period, an entry of P, and the counter CNT: CW = 16 bits (R14, R32). -/
abbrev Period := BitVec 16

/-- A value on CW + 1 = 17 bits: the threshold sum and a doubled period (R93, R94). -/
abbrev PeriodSum := BitVec 17

/-- TIMER, TW = 16 bits (R17). -/
abbrev Timer := BitVec 16

/-- UNCH, UW = 7 bits (R15). -/
abbrev IdleCount := BitVec 7

/-- PCOUNT, PCW = 6 bits (R18). -/
abbrev PeriodCount := BitVec 6

/-- FRAME, 40 bits, first-received bit in bit 39 (R20). -/
abbrev Frame := BitVec 40

/-- One byte of the frame, HUM and TEMP (R23, R43). -/
abbrev Byte := BitVec 8

end Sys2Proof
end

