-- ==== Sys2Proof/Syntax.lean ====
section
/-! DEFINITION. The names of the hardware: line levels, phases, pulse states, result kinds, the four
inputs of one clock edge, the 19 operations of spec/opcode_table.json (R49), and the written form of a
sample sequence (R53, R54). Codes and words are in Sys2Proof/Decode.lean. -/

namespace Sys2Proof

/-- The level of the line, and so a sample (R41). -/
inductive Level where
  | low
  | high
  deriving DecidableEq, Repr, Inhabited

/-- PHASE, the phase of the read cycle (R11). Five names: the reserved codes 5, 6 and 7 cannot be
written down, as R51 asks. -/
inductive Phase where
  | idle
  | startHigh
  | startLow
  | acquire
  | decode
  deriving DecidableEq, Repr, Inhabited

/-- PSTATE, the source's five pulse states in the source's order (R12, R46). The reserved codes 0, 6
and 7 cannot be written down, as R51 asks. -/
inductive PState where
  | initialPullDown
  | initialPullUp
  | dataFirstPullDown
  | dataPullUp
  | dataPullDown
  deriving DecidableEq, Repr, Inhabited

/-- The values of ERR that some rule produces (R44); the reserved code 3 cannot be written down. -/
inductive ErrKind where
  | noError
  | missingData
  | crc
  deriving DecidableEq, Repr, Inhabited

/-- The kinds that `raise` takes (R104). -/
inductive Failure where
  | missingData
  | crc
  deriving DecidableEq, Repr, Inhabited

/-- The four inputs sampled at one rising edge of `clk` (R25). -/
structure Pins where
  rst : Bool
  start : Bool
  tick : Bool
  din : Level
  deriving DecidableEq, Repr, Inhabited

/-- The operations: one constructor per row of R49, in the table's order. They take no operand from the
dispatch word (R48): a sample operation's `din` is fixed by its row, and every other bit a row leaves
open is ignored. -/
inductive Instr where
  | reset
  | idleHold
  | idleStart
  | sthHold
  | sthTick
  | stlHold
  | stlTick
  | acqHold
  | ipdL
  | ipdH
  | ipuL
  | ipuH
  | dfpdL
  | dfpdH
  | dpuL
  | dpuH
  | dpdL
  | dpdH
  | decode
  deriving DecidableEq, Repr, Inhabited

/-- A value for every bit of the dispatch word that some row ignores (a letter in the row's pattern,
R49). The code fields are raw bits here, since a row that ignores them accepts every code. -/
structure IgnoredBits where
  start : Bool
  tick : Bool
  din : Bool
  phase : BitVec 3
  pstate : BitVec 3
  deriving DecidableEq, Repr, Inhabited

/-- A run `H*n` or `L*n` of the written form of a sample sequence (R53). -/
structure Run where
  level : Level
  len : Nat
  deriving DecidableEq, Repr, Inhabited

/-- The pseudo-instructions of R54, and a plain run. -/
inductive Pseudo where
  | run (r : Run)
  | pre (a b c : Nat)
  | bit0 (lo s : Nat)
  | bit1 (lo l : Nat)
  | byte (v : Byte) (lo s l : Nat)
  | frame5 (b0 b1 b2 b3 b4 : Byte) (lo s l : Nat)
  | endLow (lo : Nat)
  | idleH
  | idleL
  deriving DecidableEq, Repr

end Sys2Proof
end

