-- ==== Sys2Proof/Config.lean ====
section
/-! DEFINITION. The fixed numbers of the block (R5), its parameters with the nominal values and the
formula that gives them from a tick rate (R5, D7), and the one free value: the inputs of a clock edge
for which the state holds none (R8, U6). -/

namespace Sys2Proof

/-- N_BITS: periods, and so data bits, in a frame (R5). -/
abbrev Config.nBits : Nat := 40

/-- The value at which PCOUNT saturates (R18). -/
abbrev Config.pcountMax : Nat := 41

/-- NAN8, what HUM and TEMP hold when there is no valid reading (R5, R23). -/
abbrev Config.nan8 : Byte := 0xFF

/-- The parameters a model takes as arguments (R5). The fixed interface gives `exec` no argument for
them, so a State carries them and no operation writes them (log entry 1). -/
structure Params where
  /-- IDLE_BOUND -/
  idleBound : Nat
  /-- START_HIGH_TICKS -/
  startHighTicks : Nat
  /-- START_LOW_TICKS -/
  startLowTicks : Nat
  deriving DecidableEq, Repr, Inhabited

/-- START_HIGH_TICKS = ceil(0.05 s × F_TICK), START_LOW_TICKS = ceil(0.02 s × F_TICK), F_TICK in Hz
(R5, D7). -/
def Params.ofTickRate (fTick idleBound : Nat) : Params where
  idleBound := idleBound
  startHighTicks := (5 * fTick + 99) / 100
  startLowTicks := (2 * fTick + 99) / 100

/-- The defaults of R5: IDLE_BOUND = 100, and the start phases at the nominal F_TICK of 1 MHz. -/
def Params.nominal : Params where
  idleBound := 100
  startHighTicks := 50000
  startLowTicks := 20000

/-- The inputs at the `n`-th clock edge where the state lists no input for it. The host and the line
are free (R8, U6): no value of this constant can be known, so a claim about such an edge holds for all
inputs (log entry 2). -/
opaque Config.freePins : Nat → Pins

end Sys2Proof
end

