-- ==== Sys2Proof/WellFormed.lean ====
section
/-! DEFINITION. What may be written down: parameter sets (R6), the dispatch words the block itself can
form (R51), and written sample sequences (R53, R54). Each check is a decidable proposition. -/

namespace Sys2Proof

/-- The constraints of R6, with UW = 7, CW = 16 and TW = 16. -/
abbrev Params.wf (c : Params) : Prop :=
  (1 ≤ c.idleBound ∧ c.idleBound < 2 ^ 7) ∧ 4 * c.idleBound + 1 < 2 ^ 16 ∧
    (1 ≤ c.startHighTicks ∧ c.startHighTicks ≤ 2 ^ 16) ∧
    (1 ≤ c.startLowTicks ∧ c.startLowTicks ≤ 2 ^ 16)

/-- The PHASE codes that name a phase (R45). -/
abbrev legalPhaseCode (c : BitVec 3) : Prop := c ≤ 4

/-- The PSTATE codes that name a pulse state (R46). -/
abbrev legalPStateCode (c : BitVec 3) : Prop := 1 ≤ c ∧ c ≤ 5

/-- The word of operation `i` with the ignored bits `g` is one the block can form: every register field
the row ignores holds a code the register can hold. The decoder accepts the others too, because the row
ignores those bits (R49). -/
abbrev Instr.wf (i : Instr) (g : IgnoredBits) : Prop :=
  match i with
  | .reset => legalPhaseCode g.phase ∧ legalPStateCode g.pstate
  | .idleHold => legalPStateCode g.pstate
  | .idleStart => legalPStateCode g.pstate
  | .sthHold => legalPStateCode g.pstate
  | .sthTick => legalPStateCode g.pstate
  | .stlHold => legalPStateCode g.pstate
  | .stlTick => legalPStateCode g.pstate
  | .acqHold => legalPStateCode g.pstate
  | .ipdL => True
  | .ipdH => True
  | .ipuL => True
  | .ipuH => True
  | .dfpdL => True
  | .dfpdH => True
  | .dpuL => True
  | .dpuH => True
  | .dpdL => True
  | .dpdH => True
  | .decode => legalPStateCode g.pstate

/-- A run has at least one sample (R53). -/
abbrev Run.wf (r : Run) : Prop := 1 ≤ r.len

/-- The run lengths of a pseudo-instruction are at least 1, but for the leading HIGH of `PRE`, which
may be absent (R54). -/
abbrev Pseudo.wf (p : Pseudo) : Prop :=
  match p with
  | .run r => r.wf
  | .pre _ b c => 1 ≤ b ∧ 1 ≤ c
  | .bit0 lo s => 1 ≤ lo ∧ 1 ≤ s
  | .bit1 lo l => 1 ≤ lo ∧ 1 ≤ l
  | .byte _ lo s l => 1 ≤ lo ∧ 1 ≤ s ∧ 1 ≤ l
  | .frame5 _ _ _ _ _ lo s l => 1 ≤ lo ∧ 1 ≤ s ∧ 1 ≤ l
  | .endLow lo => 1 ≤ lo
  | .idleH => True
  | .idleL => True

end Sys2Proof
end

