-- ==== Sys2Proof/Decode.lean ====
section
/-! DEFINITION. Encodings (spec/30_encoding.md): codes of levels, phases, pulse states and result kinds;
the dispatch word; the decoder, from the match and mask columns of R49; after it the encoder, from the
pattern column of R49; then the encoding of written sample sequences (R53, R54). -/

namespace Sys2Proof

/-! ### Codes -/

/-- LOW = 0, HIGH = 1 (R41). -/
def Level.bit : Level → Bool
  | .low => false
  | .high => true

/-- The level a sample bit stands for (R41). -/
def Level.ofBit : Bool → Level
  | false => .low
  | true => .high

/-- PHASE codes (R45). -/
def Phase.code : Phase → BitVec 3
  | .idle => 0
  | .startHigh => 1
  | .startLow => 2
  | .acquire => 3
  | .decode => 4

/-- The phase of a code; 5, 6 and 7 are reserved (R45, R51). -/
def Phase.ofCode (c : BitVec 3) : Option Phase :=
  if c = 0 then some .idle
  else if c = 1 then some .startHigh
  else if c = 2 then some .startLow
  else if c = 3 then some .acquire
  else if c = 4 then some .decode
  else none

/-- PSTATE codes: the source's numbers 1 to 5 (R46). -/
def PState.code : PState → BitVec 3
  | .initialPullDown => 1
  | .initialPullUp => 2
  | .dataFirstPullDown => 3
  | .dataPullUp => 4
  | .dataPullDown => 5

/-- The pulse state of a code; 0, 6 and 7 are reserved (R46, R51). -/
def PState.ofCode (c : BitVec 3) : Option PState :=
  if c = 1 then some .initialPullDown
  else if c = 2 then some .initialPullUp
  else if c = 3 then some .dataFirstPullDown
  else if c = 4 then some .dataPullUp
  else if c = 5 then some .dataPullDown
  else none

/-- ERR codes (R44). -/
def ErrKind.code : ErrKind → BitVec 2
  | .noError => 0
  | .missingData => 1
  | .crc => 2

/-- `code(K)` of R104: what `raise K` puts into ERR. -/
def Failure.errKind : Failure → ErrKind
  | .missingData => .missingData
  | .crc => .crc

/-! ### The dispatch word -/

/-- `dw = rst ‖ start ‖ tick ‖ din ‖ PHASE ‖ PSTATE`, the first the most significant (R47). -/
def packWord (rst start tick din : Bool) (phase pstate : BitVec 3) : DispatchWord :=
  BitVec.ofBool rst ++ BitVec.ofBool start ++ BitVec.ofBool tick ++ BitVec.ofBool din ++ phase ++ pstate

/-- The inputs in a dispatch word, bits 9 to 6 (R47). -/
def wordPins (w : DispatchWord) : Pins where
  rst := w.getLsbD 9
  start := w.getLsbD 8
  tick := w.getLsbD 7
  din := Level.ofBit (w.getLsbD 6)

/-- The PHASE field of a dispatch word, bits 5:3 (R47). -/
def wordPhase (w : DispatchWord) : BitVec 3 := w.extractLsb' 3 3

/-- The PSTATE field of a dispatch word, bits 2:0 (R47). -/
def wordPState (w : DispatchWord) : BitVec 3 := w.extractLsb' 0 3

/-! ### The decoder -/

/-- One row of the operation map: the operation and the two columns that select it (R49). -/
structure OpRow where
  op : Instr
  mtch : DispatchWord
  mask : DispatchWord
  deriving DecidableEq, Repr

/-- `(dw & mask) == match` (R49). -/
def OpRow.selects (r : OpRow) (w : DispatchWord) : Bool := w &&& r.mask == r.mtch

/-- Rows 1 to 8 of R49. -/
def sequencerRows : List OpRow :=
  [⟨.reset, 0x200, 0x200⟩, ⟨.idleHold, 0x000, 0x338⟩, ⟨.idleStart, 0x100, 0x338⟩,
   ⟨.sthHold, 0x008, 0x2B8⟩, ⟨.sthTick, 0x088, 0x2B8⟩, ⟨.stlHold, 0x010, 0x2B8⟩,
   ⟨.stlTick, 0x090, 0x2B8⟩, ⟨.acqHold, 0x018, 0x2B8⟩]

/-- Rows 9 to 18 of R49, the ACQ sample operations. -/
def sampleRows : List OpRow :=
  [⟨.ipdL, 0x099, 0x2FF⟩, ⟨.ipdH, 0x0D9, 0x2FF⟩, ⟨.ipuL, 0x09A, 0x2FF⟩, ⟨.ipuH, 0x0DA, 0x2FF⟩,
   ⟨.dfpdL, 0x09B, 0x2FF⟩, ⟨.dfpdH, 0x0DB, 0x2FF⟩, ⟨.dpuL, 0x09C, 0x2FF⟩, ⟨.dpuH, 0x0DC, 0x2FF⟩,
   ⟨.dpdL, 0x09D, 0x2FF⟩, ⟨.dpdH, 0x0DD, 0x2FF⟩]

/-- The operation map of R49, row 19 last. -/
def opTable : List OpRow := sequencerRows ++ sampleRows ++ [⟨.decode, 0x020, 0x238⟩]

/-- Why no operation is read from a word. -/
inductive DecodeError where
  /-- `rst` = 0 and PHASE in 5, 6, 7 (R51 a) -/
  | reservedPhase
  /-- `rst` = 0, PHASE = ACQUIRE, `tick` = 1 and PSTATE in 0, 6, 7 (R51 b) -/
  | reservedPState
  /-- a bit above bit 9 is set: the only length is 10 bits (R47, R52) -/
  | tooLong
  deriving DecidableEq, Repr

/-- The operation a dispatch word selects (R50); a reserved word is rejected by the clause of R51 it
falls under. -/
def decode (w : DispatchWord) : Except DecodeError Instr :=
  match opTable.find? (fun r => r.selects w) with
  | some r => .ok r.op
  | none => .error (if wordPhase w = Phase.acquire.code then .reservedPState else .reservedPhase)

/-- The dispatch word in the low `nbits` bits of `w`; every bit above them is 0. -/
def decodeBits (nbits w : Nat) : Except DecodeError Instr :=
  if w % 2 ^ nbits < 2 ^ 10 then decode (BitVec.ofNat 10 (w % 2 ^ nbits)) else .error .tooLong

/-- The decoder as the host asks for it: bit 0 is the least significant bit of the dispatch word. -/
def decodeTableWord (nbits w : Nat) : Option Instr := (decodeBits nbits w).toOption

/-! ### The encoder -/

/-- The word of an operation, bit by bit from the pattern column `rstdpppqqq` of R49; a letter takes the
ignored bit of that name. -/
def encode (i : Instr) (g : IgnoredBits) : DispatchWord :=
  match i with
  | .reset => packWord true g.start g.tick g.din g.phase g.pstate
  | .idleHold => packWord false false g.tick g.din 0b000 g.pstate
  | .idleStart => packWord false true g.tick g.din 0b000 g.pstate
  | .sthHold => packWord false g.start false g.din 0b001 g.pstate
  | .sthTick => packWord false g.start true g.din 0b001 g.pstate
  | .stlHold => packWord false g.start false g.din 0b010 g.pstate
  | .stlTick => packWord false g.start true g.din 0b010 g.pstate
  | .acqHold => packWord false g.start false g.din 0b011 g.pstate
  | .ipdL => packWord false g.start true false 0b011 0b001
  | .ipdH => packWord false g.start true true 0b011 0b001
  | .ipuL => packWord false g.start true false 0b011 0b010
  | .ipuH => packWord false g.start true true 0b011 0b010
  | .dfpdL => packWord false g.start true false 0b011 0b011
  | .dfpdH => packWord false g.start true true 0b011 0b011
  | .dpuL => packWord false g.start true false 0b011 0b100
  | .dpuH => packWord false g.start true true 0b011 0b100
  | .dpdL => packWord false g.start true false 0b011 0b101
  | .dpdH => packWord false g.start true true 0b011 0b101
  | .decode => packWord false g.start g.tick g.din 0b100 g.pstate

/-- An operation's mnemonic, as R49 spells it (the trace form of R56). -/
def Instr.mnemonic : Instr → String
  | .reset => "RESET"
  | .idleHold => "IDLE.HOLD"
  | .idleStart => "IDLE.START"
  | .sthHold => "STH.HOLD"
  | .sthTick => "STH.TICK"
  | .stlHold => "STL.HOLD"
  | .stlTick => "STL.TICK"
  | .acqHold => "ACQ.HOLD"
  | .ipdL => "IPD.L"
  | .ipdH => "IPD.H"
  | .ipuL => "IPU.L"
  | .ipuH => "IPU.H"
  | .dfpdL => "DFPD.L"
  | .dfpdH => "DFPD.H"
  | .dpuL => "DPU.L"
  | .dpuH => "DPU.H"
  | .dpdL => "DPD.L"
  | .dpdH => "DPD.H"
  | .decode => "DECODE"

/-! ### Written sample sequences -/

/-- `BIT0(lo, s)` and `BIT1(lo, l)` have one shape, `L*lo H*n` (R54). -/
def bitRuns (lo n : Nat) : List Run := [⟨.low, lo⟩, ⟨.high, n⟩]

/-- `BYTE(v; lo, s, l)`: for k = 7 down to 0, `BIT1(lo, l)` if bit k of v is 1, else `BIT0(lo, s)`
(R54). -/
def byteRuns (v : Byte) (lo s l : Nat) : List Run :=
  [7, 6, 5, 4, 3, 2, 1, 0].flatMap fun k => bitRuns lo (if v.getLsbD k then l else s)

/-- The runs a pseudo-instruction stands for (R54); `bound` is IDLE_BOUND. -/
def Pseudo.runs (bound : Nat) : Pseudo → List Run
  | .run r => [r]
  | .pre 0 b c => [⟨.low, b⟩, ⟨.high, c⟩]
  | .pre (a + 1) b c => [⟨.high, a + 1⟩, ⟨.low, b⟩, ⟨.high, c⟩]
  | .bit0 lo s => bitRuns lo s
  | .bit1 lo l => bitRuns lo l
  | .byte v lo s l => byteRuns v lo s l
  | .frame5 b0 b1 b2 b3 b4 lo s l => [b0, b1, b2, b3, b4].flatMap fun b => byteRuns b lo s l
  | .endLow lo => [⟨.low, lo⟩]
  | .idleH => [⟨.high, bound + 1⟩]
  | .idleL => [⟨.low, bound + 1⟩]

/-- The samples of a list of runs, first sample first (R53). -/
def runSamples (rs : List Run) : List Level := rs.flatMap fun r => List.replicate r.len r.level

/-- The samples of a written program (R53, R54). -/
def programSamples (bound : Nat) (ps : List Pseudo) : List Level :=
  runSamples (ps.flatMap (Pseudo.runs bound))

/-- Eight samples as a byte, the first the most significant (R53). -/
def sampleByte (bs : List Level) : Byte := bs.foldl (fun v l => v <<< 1 ||| (BitVec.ofBool l.bit).setWidth 8) 0

/-- The hexadecimal form's bytes: the samples packed most-significant-bit first, the last byte padded
with 0 bits on the right (R53). -/
def packSamples : List Level → List Byte
  | a :: b :: c :: d :: e :: f :: g :: h :: rest => sampleByte [a, b, c, d, e, f, g, h] :: packSamples rest
  | [] => []
  | short => [sampleByte short <<< (8 - short.length)]

end Sys2Proof
end

