-- ==== Sys2Proof/Machine/State.lean ====
section
/-! DEFINITION. The machine's state as plain data (R10), its outputs (R26), the reasons a step can stop,
and the state right after reset (R31, R120). -/

namespace Sys2Proof.Machine

/-- The period memory P (R32): the entries that hold a value, as pairs of index and period, indices
strictly rising. An unlisted entry holds no value (R19). The unit is the whole entry (R37), so there is
no byte order inside one. -/
abbrev Memory := List (Nat × Period)

/-- Everything the spec gives the block (R10), then three fields of the model's own: the parameters
(log entry 1), and the inputs of the coming edges with the number of edges passed (log entry 2). -/
structure State where
  /-- PHASE (R11) -/
  phase : Phase
  /-- PSTATE (R12) -/
  pstate : PState
  /-- TIMER (R17) -/
  timer : Timer
  /-- UNCH (R15) -/
  unch : IdleCount
  /-- LAST (R16) -/
  last : Level
  /-- LASTV (R16) -/
  lastv : Bool
  /-- CNT (R14) -/
  cnt : Period
  /-- PCOUNT (R18) -/
  pcount : PeriodCount
  /-- P (R19, R32) -/
  periods : Memory
  /-- FRAME (R20) -/
  frame : Frame
  /-- ERR (R21) -/
  err : ErrKind
  /-- RDY (R22) -/
  rdy : Bool
  /-- HUM (R23) -/
  hum : Byte
  /-- TEMP (R23) -/
  temp : Byte
  /-- PUE (R24) -/
  pue : Bool
  /-- the model's own: the parameters of R5 -/
  params : Params
  /-- the model's own: `rst`, `start`, `tick`, `din` at the coming edges, the next edge first (R25) -/
  pins : List Pins
  /-- the model's own: the number of clock edges since reset -/
  edge : Nat
  deriving DecidableEq, Repr

/-- The output ports (R26). -/
structure Outputs where
  lineOe : Bool
  lineOut : Bool
  linePue : Bool
  busy : Bool
  rdy : Bool
  valid : Bool
  err : BitVec 2
  hum : Byte
  temp : Byte
  frame : Frame
  phase : BitVec 3
  pstate : BitVec 3
  pcount : PeriodCount
  deriving DecidableEq, Repr

/-- The machine stops with a fault. -/
inductive Fault where
  /-- DECODE needs an entry of P that holds no value of this cycle. Raised by `execDecode`. No run from
  reset reaches it (R34, U7); safe: the model stops where the spec says nothing. -/
  | unwrittenPeriod (index : Nat)
  deriving DecidableEq, Repr

/-- The step has no meaning for what it read. -/
inductive Refusal where
  /-- An operation without a meaning. Raised by no arm of this model; safe. -/
  | notModelled (mnemonic : String)
  /-- A reserved dispatch word (R51, U1). Raised by `step` alone. PHASE and PSTATE cannot hold a reserved
  code, so no state forms such a word; safe. -/
  | reservedWord (why : DecodeError)
  deriving DecidableEq, Repr

/-- The state after RESET (R31), with no entry of P holding a value, the nominal parameters of R5, no
input listed and no edge passed. -/
def State.reset : State where
  phase := .idle
  pstate := .initialPullDown
  timer := 0
  unch := 0
  last := .low
  lastv := false
  cnt := 0
  pcount := 0
  periods := []
  frame := 0
  err := .noError
  rdy := false
  hum := Config.nan8
  temp := Config.nan8
  pue := false
  params := Params.nominal
  pins := []
  edge := 0

end Sys2Proof.Machine
end

