-- ==== Sys2Proof/Machine/Operands.lean ====
section
/-! DEFINITION. What an operation reads: the inputs of this edge, the dispatch word formed from them and
from the control state (R47), and the bits and bytes of a frame (R20, R35). The operations take no
immediates (R48). -/

namespace Sys2Proof.Machine

/-- The inputs sampled at the next edge: the first listed ones, or free ones where none is listed (R8,
R25, log entry 2). -/
def State.nextPins (s : State) : Pins :=
  match s.pins with
  | p :: _ => p
  | [] => Config.freePins s.edge

/-- The edge has passed: its inputs are consumed, each sample exactly once (R37, R39). -/
def State.clockEdge (s : State) : State := { s with pins := s.pins.tail, edge := s.edge + 1 }

/-- `s` with the inputs of the coming edges given. -/
def State.withPins (s : State) (ps : List Pins) : State := { s with pins := ps }

/-- The word that inputs and control state form (R47). -/
def wordOf (p : Pins) (phase : Phase) (pstate : PState) : DispatchWord :=
  packWord p.rst p.start p.tick p.din.bit phase.code pstate.code

/-- The dispatch word of the next edge (R47). -/
def State.dispatchWord (s : State) : DispatchWord := wordOf s.nextPins s.phase s.pstate

/-- BIT[i] = FRAME[39 − i] (R20). -/
def bitOf (f : Frame) (i : Nat) : Bool := f.getMsbD i

/-- BYTE[j] = FRAME[39 − 8j : 32 − 8j] (R20). -/
def byteOf (f : Frame) (j : Nat) : Byte := f.extractLsb' (32 - 8 * j) 8

/-- The inputs of a tick that samples level `l`, with `rst` and `start` at 0. -/
def samplePins (l : Level) : Pins where
  rst := false
  start := false
  tick := true
  din := l

end Sys2Proof.Machine
end

