-- ==== Sys2Proof/Machine/Flags.lean ====
section
/-! DEFINITION. The status flags as the outside sees them: the validity predicate, the output ports and
the STATUS view (R26, R27, R28). All are functions of the state alone. -/

namespace Sys2Proof.Machine

/-- `busy`: PHASE is not IDLE (R26). -/
def State.busy (s : State) : Bool := s.phase != .idle

/-- `valid`: RDY = 1 and ERR = NO_ERROR (R26, R107). -/
def State.valid (s : State) : Bool := s.rdy && s.err == .noError

/-- `line_oe`: the block drives the line, in START_HIGH and START_LOW (R26). -/
def State.lineOe (s : State) : Bool := s.phase == .startHigh || s.phase == .startLow

/-- `line_out`: the driven level, HIGH in START_HIGH (R26). -/
def State.lineOut (s : State) : Bool := s.phase == .startHigh

/-- The output ports (R26). -/
def State.outputs (s : State) : Outputs where
  lineOe := s.lineOe
  lineOut := s.lineOut
  linePue := s.pue
  busy := s.busy
  rdy := s.rdy
  valid := s.valid
  err := s.err.code
  hum := s.hum
  temp := s.temp
  frame := s.frame
  phase := s.phase.code
  pstate := s.pstate.code
  pcount := s.pcount

/-- STATUS, bit 15 (reserved, 0) first, ERR last (R27). -/
def State.status (s : State) : BitVec 16 :=
  BitVec.ofBool false ++ BitVec.ofBool s.pue ++ s.pcount ++ s.pstate.code ++ BitVec.ofBool s.valid ++
    BitVec.ofBool s.busy ++ BitVec.ofBool s.rdy ++ s.err.code

end Sys2Proof.Machine
end

