-- ==== Sys2Proof/Machine/Ops.lean ====
section
/-! DEFINITION. The shared operations: reading and writing the period memory, the start of a fresh
cycle, the parts common to the ten sample operations (R71), and `raise` with the completion of a cycle
(R104). -/

namespace Sys2Proof.Machine

/-! ### The period memory -/

/-- The value entry `i` holds, none where it holds none (R32). -/
def Memory.read : Memory → Nat → Option Period
  | [], _ => none
  | (j, v) :: m, i => if i = j then some v else Memory.read m i

/-- Store `v` into entry `i`, keeping the indices rising (R33). -/
def Memory.write : Memory → Nat → Period → Memory
  | [], i, v => [(i, v)]
  | (j, w) :: m, i, v =>
    if i < j then (i, v) :: (j, w) :: m
    else if i = j then (i, v) :: m
    else (j, w) :: Memory.write m i v

/-- The canonical form: indices strictly rising and all of them indices of P, 0..39 (R32, R38). -/
abbrev Memory.wf (m : Memory) : Prop :=
  m.Pairwise (fun c d => c.1 < d.1) ∧ ∀ c ∈ m, c.1 < Config.nBits

/-- What a read of P[i] finds: the value DPD.L wrote to entry `i` in this cycle, none where it wrote
none. An entry left from an earlier cycle counts as holding no value (R19, R31, R34). -/
def State.period? (s : State) (i : Nat) : Option Period :=
  if i < s.pcount.toNat then s.periods.read i else none

/-- `n` entries of P from entry `i` on, or the first index that holds no value (R34, U7). -/
def State.readPeriods (s : State) (i : Nat) : Nat → Except Nat (List Period)
  | 0 => .ok []
  | n + 1 =>
    match s.period? i with
    | none => .error i
    | some p =>
      match s.readPeriods (i + 1) n with
      | .error j => .error j
      | .ok ps => .ok (p :: ps)

/-! ### A fresh cycle -/

/-- Every register but PHASE at the value that RESET and IDLE.START both give it (R31). P is not
written, and with PCOUNT = 0 none of its entries holds a value of the new cycle. -/
def State.clear (s : State) (phase : Phase) : State :=
  { s with
    phase := phase
    pstate := .initialPullDown
    timer := 0
    unch := 0
    last := .low
    lastv := false
    cnt := 0
    pcount := 0
    frame := 0
    err := .noError
    rdy := false
    hum := Config.nan8
    temp := Config.nan8
    pue := false }

/-! ### The parts of a sample operation -/

/-- Idle detector update for sample `l` (R68). -/
def State.idleDetect (s : State) (l : Level) : State :=
  if s.lastv = false ∨ l ≠ s.last then { s with unch := 0, last := l, lastv := true }
  else { s with unch := s.unch + 1 }

/-- `CNT <- CNT + 1` on CW bits (R75). -/
def State.countSample (s : State) : State := { s with cnt := s.cnt + 1 }

/-- `PSTATE <- q`. -/
def State.moveTo (s : State) (q : PState) : State := { s with pstate := q }

/-- `CNT <- 0` (R83). -/
def State.zeroCount (s : State) : State := { s with cnt := 0 }

/-- Record CNT as a period: stored if PCOUNT < 40, counted if PCOUNT < 41 (R33, R84). -/
def State.recordPeriod (s : State) : State :=
  { s with
    periods :=
      if s.pcount.toNat < Config.nBits then s.periods.write s.pcount.toNat s.cnt else s.periods
    pcount := if s.pcount.toNat < Config.pcountMax then s.pcount + 1 else s.pcount }

/-- Termination test: acquisition ends when UNCH reaches IDLE_BOUND (R69). -/
def State.endOnIdle (s : State) : State :=
  if s.unch.toNat = s.params.idleBound then { s with phase := .decode } else s

/-- An ACQ sample operation on sample `l` with the state-specific part `act` (R71). -/
def sampleOp (l : Level) (act : State → State) (s : State) : State :=
  (act (s.idleDetect l).countSample).endOnIdle

/-! ### The end of a cycle -/

/-- `raise K` puts the code of K into ERR and leaves HUM and TEMP (R104). Nothing is saved elsewhere and
control goes nowhere (R109); there is nothing to return from (R110). -/
def State.raise (s : State) (k : Failure) : State := { s with err := k.errKind }

/-- The last two statements of DECODE: `RDY <- 1; PHASE <- IDLE` (R90, R104). -/
def State.complete (s : State) : State := { s with rdy := true, phase := .idle }

end Sys2Proof.Machine
end

