-- ==== Sys2Proof/Machine/Decoder.lean ====
section
/-! DEFINITION. The decoder family (spec/42_decoder.md): the sub-operations LENCHK, MINMAX, THRESH,
SLICE, PACK, CSUM and COMMIT, each under its own name, and the operation DECODE made of them. -/

namespace Sys2Proof.Machine

/-- LENCHK (R91): `PCOUNT == 40`. -/
def lenchk (s : State) : Bool := s.pcount.toNat == Config.nBits

/-- MINMAX, the least period (R92). -/
def shortest : List Period → Period
  | [] => BitVec.allOnes 16
  | p :: ps => if p ≤ shortest ps then p else shortest ps

/-- MINMAX, the greatest period (R92). -/
def longest : List Period → Period
  | [] => 0
  | p :: ps => if longest ps ≤ p then p else longest ps

/-- THRESH (R93): `sum = shortest + longest` on CW + 1 bits. -/
def thresh (lo hi : Period) : PeriodSum := lo.setWidth 17 + hi.setWidth 17

/-- SLICE (R94): 1 if `2 * P[i] > sum`, the product on CW + 1 bits. -/
def slice (sum : PeriodSum) (p : Period) : Bool := sum < 2 * p.setWidth 17

/-- The 40 decided bits, all against the one threshold of the frame (R92 to R94). -/
def sliceAll (ps : List Period) : List Bool := ps.map (slice (thresh (shortest ps) (longest ps)))

/-- PACK (R95): `b[0] ‖ b[1] ‖ … ‖ b[39]`. -/
def packBits (bs : List Bool) : Frame := (BitVec.ofBoolListBE bs).setWidth 40

/-- CSUM (R96): `(BYTE[0] + BYTE[1] + BYTE[2] + BYTE[3]) mod 256`. -/
def csum (f : Frame) : Byte :=
  BitVec.ofNat 8 ((byteOf f 0).toNat + (byteOf f 1).toNat + (byteOf f 2).toNat + (byteOf f 3).toNat)

/-- CSUM's verdict (R96): the fifth byte is the checksum of the first four. -/
def csumOk (f : Frame) : Bool := csum f == byteOf f 4

/-- COMMIT (R97): ERR, HUM and TEMP of a frame that passed both checks. -/
def State.commit (s : State) (f : Frame) : State :=
  { s with err := .noError, hum := byteOf f 0, temp := byteOf f 2 }

/-- The second half of DECODE, from the packed frame on (R90, R95 to R97). -/
def State.deliver (s : State) (f : Frame) : State :=
  if csumOk f then { s with frame := f }.commit f else { s with frame := f }.raise .crc

/-- DECODE (R90). An entry of P that holds no value of this cycle stops the machine (U7); no run from
reset meets one (R34). -/
def execDecode (s : State) : Host.Outcome State Fault Refusal :=
  if lenchk s then
    match s.readPeriods 0 Config.nBits with
    | .error i => .fault (.unwrittenPeriod i)
    | .ok ps => .next (s.deliver (packBits (sliceAll ps))).complete
  else .next (s.raise .missingData).complete

end Sys2Proof.Machine
end

