-- ==== Sys2Proof/Machine/PulseFsm.lean ====
section
/-! DEFINITION. The pulse-width period detector (spec/41_pulse_fsm.md): the ten ACQ sample operations,
each the common parts of R71 around the transition of its own rule. -/

namespace Sys2Proof.Machine

/-- IPD.L (R76): `PSTATE <- 2`. -/
def execIpdL (s : State) : Host.Outcome State Fault Refusal :=
  .next (sampleOp .low (fun t => t.moveTo .initialPullUp) s)

/-- IPD.H (R77): nothing more. -/
def execIpdH (s : State) : Host.Outcome State Fault Refusal := .next (sampleOp .high (fun t => t) s)

/-- IPU.L (R78): nothing more. -/
def execIpuL (s : State) : Host.Outcome State Fault Refusal := .next (sampleOp .low (fun t => t) s)

/-- IPU.H (R79): `PSTATE <- 3`. -/
def execIpuH (s : State) : Host.Outcome State Fault Refusal :=
  .next (sampleOp .high (fun t => t.moveTo .dataFirstPullDown) s)

/-- DFPD.L (R80): `PSTATE <- 4`; the response's HIGH run is not recorded. -/
def execDfpdL (s : State) : Host.Outcome State Fault Refusal :=
  .next (sampleOp .low (fun t => t.moveTo .dataPullUp) s)

/-- DFPD.H (R81): nothing more. -/
def execDfpdH (s : State) : Host.Outcome State Fault Refusal := .next (sampleOp .high (fun t => t) s)

/-- DPU.L (R82): nothing more. -/
def execDpuL (s : State) : Host.Outcome State Fault Refusal := .next (sampleOp .low (fun t => t) s)

/-- DPU.H (R83): `CNT <- 0; PSTATE <- 5`. -/
def execDpuH (s : State) : Host.Outcome State Fault Refusal :=
  .next (sampleOp .high (fun t => t.zeroCount.moveTo .dataPullDown) s)

/-- DPD.L (R84): record the incremented CNT as a period, then `PSTATE <- 4`. -/
def execDpdL (s : State) : Host.Outcome State Fault Refusal :=
  .next (sampleOp .low (fun t => t.recordPeriod.moveTo .dataPullUp) s)

/-- DPD.H (R85): nothing more. -/
def execDpdH (s : State) : Host.Outcome State Fault Refusal := .next (sampleOp .high (fun t => t) s)

end Sys2Proof.Machine
end

