-- ==== Sys2Proof/Machine/Sequencer.lean ====
section
/-! DEFINITION. The sequencer family (spec/40_sequencer.md): RESET, IDLE.HOLD, IDLE.START, STH.HOLD,
STH.TICK, STL.HOLD, STL.TICK and ACQ.HOLD. -/

namespace Sys2Proof.Machine

/-- RESET (R58): the column "after RESET" of R31. -/
def execReset (s : State) : Host.Outcome State Fault Refusal := .next (s.clear .idle)

/-- IDLE.HOLD (R59): no register changes. -/
def execIdleHold (s : State) : Host.Outcome State Fault Refusal := .next s

/-- IDLE.START (R62): the column "after IDLE.START" of R31. -/
def execIdleStart (s : State) : Host.Outcome State Fault Refusal := .next (s.clear .startHigh)

/-- STH.HOLD (R64): no register changes. -/
def execSthHold (s : State) : Host.Outcome State Fault Refusal := .next s

/-- STH.TICK (R65). `TIMER == START_HIGH_TICKS − 1` is compared on integers. -/
def execSthTick (s : State) : Host.Outcome State Fault Refusal :=
  .next
    (if s.timer.toNat + 1 = s.params.startHighTicks then { s with phase := .startLow, timer := 0 }
    else { s with timer := s.timer + 1 })

/-- STL.HOLD (R66): no register changes. -/
def execStlHold (s : State) : Host.Outcome State Fault Refusal := .next s

/-- STL.TICK (R67): the edge that ends the phase releases the line and enables the pull-up. -/
def execStlTick (s : State) : Host.Outcome State Fault Refusal :=
  .next
    (if s.timer.toNat + 1 = s.params.startLowTicks then
      { s with phase := .acquire, timer := 0, pue := true }
    else { s with timer := s.timer + 1 })

/-- ACQ.HOLD (R70): no register changes; `din` is not sampled. -/
def execAcqHold (s : State) : Host.Outcome State Fault Refusal := .next s

end Sys2Proof.Machine
end

