-- ==== Sys2Proof/Machine/Dispatch.lean ====
section
/-! DEFINITION. One arm per operation of R49. -/

namespace Sys2Proof.Machine

def exec (i : Instr) (s : State) : Host.Outcome State Fault Refusal :=
  match i with
  | .reset => Sys2Proof.Machine.execReset s
  | .idleHold => Sys2Proof.Machine.execIdleHold s
  | .idleStart => Sys2Proof.Machine.execIdleStart s
  | .sthHold => Sys2Proof.Machine.execSthHold s
  | .sthTick => Sys2Proof.Machine.execSthTick s
  | .stlHold => Sys2Proof.Machine.execStlHold s
  | .stlTick => Sys2Proof.Machine.execStlTick s
  | .acqHold => Sys2Proof.Machine.execAcqHold s
  | .ipdL => Sys2Proof.Machine.execIpdL s
  | .ipdH => Sys2Proof.Machine.execIpdH s
  | .ipuL => Sys2Proof.Machine.execIpuL s
  | .ipuH => Sys2Proof.Machine.execIpuH s
  | .dfpdL => Sys2Proof.Machine.execDfpdL s
  | .dfpdH => Sys2Proof.Machine.execDfpdH s
  | .dpuL => Sys2Proof.Machine.execDpuL s
  | .dpuH => Sys2Proof.Machine.execDpuH s
  | .dpdL => Sys2Proof.Machine.execDpdL s
  | .dpdH => Sys2Proof.Machine.execDpdH s
  | .decode => Sys2Proof.Machine.execDecode s

end Sys2Proof.Machine
end

