-- ==== Sys2Proof/Machine/Step.lean ====
section
/-! DEFINITION. One rising edge of `clk` (R7, R50): the block reads its four inputs, forms the dispatch
word, and performs the one operation it selects. `withFetchWord` places a dispatch word for the next
edge. -/

namespace Sys2Proof.Machine

/-- One clock edge. The inputs are consumed whatever the operation is. -/
def step (s : State) : Host.Outcome State Fault Refusal :=
  match decode s.dispatchWord with
  | .ok i => exec i s.clockEdge
  | .error e => .refused (.reservedWord e)

/-- `s` with its next dispatch word made `w`: bits 9 to 6 are the inputs of the next edge, bits 5 to 0
the control state. A field of `w` that holds a reserved code leaves its register as it is; in a word that
decodes, such a field is one its row ignores, so the same operation runs (R49, R51, log entry 3). -/
def State.withFetchWord (s : State) (nbits w : Nat) : State :=
  let dw := BitVec.ofNat 10 (w % 2 ^ nbits)
  { s with
    pins := wordPins dw :: s.pins.tail
    phase := (Phase.ofCode (wordPhase dw)).getD s.phase
    pstate := (PState.ofCode (wordPState dw)).getD s.pstate }

end Sys2Proof.Machine
end

