-- ==== Sys2Proof/Safety.lean ====
section
/-! DEFINITION. What a safe run is, in the terms the statements use: the invariant that every clock edge
keeps, the three shapes of a result (R55), and the reading of a whole sample sequence as a list of runs
and of periods that the pulse state machine is measured against (R86, R88). -/

namespace Sys2Proof.Machine

/-! ### The invariant -/

/-- PCOUNT is at most 41, and every entry of P below it (and below 40) holds a value between 1 and
IDLE_BOUND (R18, R33, R87). -/
def RecordedInv (s : State) : Prop :=
  s.pcount.toNat ≤ Config.pcountMax ∧
    ∀ i < min s.pcount.toNat Config.nBits,
      ∃ v, s.period? i = some v ∧ 1 ≤ v.toNat ∧ v.toNat ≤ s.params.idleBound

/-- TIMER counts below the length of its phase, and is 0 in every other phase (R17). -/
def TimerInv (s : State) : Prop :=
  match s.phase with
  | .startHigh => s.timer.toNat < s.params.startHighTicks
  | .startLow => s.timer.toNat < s.params.startLowTicks
  | .idle => s.timer = 0
  | .acquire => s.timer = 0
  | .decode => s.timer = 0

/-- UNCH never exceeds IDLE_BOUND, is below it while samples are taken, and stands at it when they end
(R15, R69). -/
def IdleInv (s : State) : Prop :=
  s.unch.toNat ≤ s.params.idleBound ∧
    (s.phase = .acquire → s.unch.toNat < s.params.idleBound) ∧
    (s.phase = .decode → s.unch.toNat = s.params.idleBound)

/-- Before the first sample of a cycle every acquisition register holds its initial value, and no sample
is taken before ACQUIRE (R16, R31). -/
def FreshInv (s : State) : Prop :=
  (s.lastv = false →
    s.last = .low ∧ s.unch = 0 ∧ s.cnt = 0 ∧ s.pcount = 0 ∧ s.pstate = .initialPullDown) ∧
  (s.phase = .startHigh ∨ s.phase = .startLow → s.lastv = false)

/-- After a sample, the pulse state says which level the current run has, bounds CNT in terms of the
run's length so far, and has recorded nothing before state 4 (R74, R87, R88). -/
def PulseInv (s : State) : Prop :=
  s.lastv = true →
    match s.pstate with
    | .initialPullDown => s.last = .high ∧ s.pcount = 0 ∧ s.cnt.toNat = s.unch.toNat + 1
    | .initialPullUp =>
      s.last = .low ∧ s.pcount = 0 ∧ s.cnt.toNat ≤ s.params.idleBound + s.unch.toNat + 1
    | .dataFirstPullDown =>
      s.last = .high ∧ s.pcount = 0 ∧ s.cnt.toNat ≤ 2 * s.params.idleBound + s.unch.toNat + 1
    | .dataPullUp => s.last = .low ∧ s.cnt.toNat ≤ 3 * s.params.idleBound + s.unch.toNat + 1
    | .dataPullDown => s.last = .high ∧ s.cnt.toNat = s.unch.toNat

/-- The result registers at their cleared values: the tuple of R55 with RDY = 0. -/
def ResultCleared (s : State) : Prop :=
  s.err = .noError ∧ s.hum = Config.nan8 ∧ s.temp = Config.nan8 ∧ s.frame = 0

/-- One of the three shapes of a delivered result (R55). -/
def ResultShape (s : State) : Prop :=
  (s.err = .noError ∧ s.hum = byteOf s.frame 0 ∧ s.temp = byteOf s.frame 2 ∧
    byteOf s.frame 4 = csum s.frame) ∨
  (s.err = .crc ∧ s.hum = Config.nan8 ∧ s.temp = Config.nan8 ∧ byteOf s.frame 4 ≠ csum s.frame) ∨
  (s.err = .missingData ∧ s.hum = Config.nan8 ∧ s.temp = Config.nan8 ∧ s.frame = 0)

/-- A result is shown only in IDLE, and has one of its shapes; otherwise the registers are cleared
(R22, R23, R55). -/
def ResultInv (s : State) : Prop :=
  (s.rdy = true → s.phase = .idle ∧ ResultShape s) ∧ (s.rdy = false → ResultCleared s)

/-- The pull-up is on from the end of START_LOW until the next start or reset (R24, R57). -/
def LineInv (s : State) : Prop :=
  s.pue = true ↔ s.phase = .acquire ∨ s.phase = .decode ∨ s.rdy = true

/-- The invariant of a block that has been reset and whose parameters satisfy R6. -/
structure Inv (s : State) : Prop where
  params : s.params.wf
  memory : Memory.wf s.periods
  recorded : RecordedInv s
  timer : TimerInv s
  idle : IdleInv s
  fresh : FreshInv s
  pulse : PulseInv s
  result : ResultInv s
  line : LineInv s

/-! ### One sample -/

/-- UNCH after sample `l`: 0 at the first sample and at a change of level, else one more (R68). -/
def idleAfter (l : Level) (s : State) : IdleCount :=
  if s.lastv = false ∨ l ≠ s.last then 0 else s.unch + 1

/-- PHASE after sample `l`: DECODE once UNCH has reached IDLE_BOUND (R69). -/
def phaseAfter (l : Level) (s : State) : Phase :=
  if (idleAfter l s).toNat = s.params.idleBound then .decode else s.phase

/-- The effect of sample `l` that all ten sample operations share (R71): the idle detector, the counter
increment (R75) and the termination test. -/
def sampled (l : Level) (s : State) : State :=
  { s with
    unch := idleAfter l s
    last := l
    lastv := true
    cnt := s.cnt + 1
    phase := phaseAfter l s }

/-- The sample a sample operation takes, by its row of R49. -/
def sampleLevel : Instr → Option Level
  | .reset => none
  | .idleHold => none
  | .idleStart => none
  | .sthHold => none
  | .sthTick => none
  | .stlHold => none
  | .stlTick => none
  | .acqHold => none
  | .ipdL => some .low
  | .ipdH => some .high
  | .ipuL => some .low
  | .ipuH => some .high
  | .dfpdL => some .low
  | .dfpdH => some .high
  | .dpuL => some .low
  | .dpuH => some .high
  | .dpdL => some .low
  | .dpdH => some .high
  | .decode => none

/-! ### Whole sample sequences -/

/-- Every input of the list is a tick without reset: an edge that takes a sample in ACQUIRE. -/
def AllTicks (ps : List Pins) : Prop := ∀ p ∈ ps, p.rst = false ∧ p.tick = true

/-- The maximal runs of a sample sequence with their lengths (00_scope.md section 6, "Run"). -/
def runsOf : List Level → List Run
  | [] => []
  | l :: ls =>
    match runsOf ls with
    | [] => [⟨l, 1⟩]
    | r :: rs => if l = r.level then ⟨l, r.len + 1⟩ :: rs else ⟨l, 1⟩ :: r :: rs

/-- The period sequence of a sample sequence, read off its runs in the words of R88: the lengths of the
HIGH runs, from the second one after the first LOW run on, that a LOW sample follows. -/
def periodsOf (ls : List Level) : List Nat :=
  (((((runsOf ls).dropLast).dropWhile (fun r => r.level == .high)).filter
    (fun r => r.level == .high)).drop 1).map (fun r => r.len)

/-- The operations of a run, one per clock edge (R56). -/
def trace : Nat → State → List Instr
  | 0, _ => []
  | n + 1, s =>
    match decode s.dispatchWord, step s with
    | .ok i, .next t => i :: trace n t
    | _, _ => []

end Sys2Proof.Machine
end

