-- ==== Sys2Proof/Certificates/Slice0/Obligations.lean ====
section
/-! DEFINITION. The statements about the model, each from the rules of spec/ that its docstring names.
Nothing is proved here. `core.run n s` is `n` clock edges. -/

namespace Sys2Proof.Claims

open Sys2Proof.Machine

/-- The reserved dispatch words, clause (a) of R51. -/
def reservedByPhase (w : DispatchWord) : Prop := w.getLsbD 9 = false ∧ 5 ≤ wordPhase w

/-- The reserved dispatch words, clause (b) of R51. -/
def reservedByPState (w : DispatchWord) : Prop :=
  w.getLsbD 9 = false ∧ wordPhase w = 3 ∧ w.getLsbD 7 = true ∧ (wordPState w = 0 ∨ 6 ≤ wordPState w)

/-- The inputs that R50 says are looked at in phase `ph` are the same: `rst` always; without `rst`,
`start` in IDLE alone, `tick` in START_HIGH, START_LOW and ACQUIRE, `din` at a tick of ACQUIRE. -/
def sameSeen (ph : Phase) (p q : Pins) : Prop :=
  p.rst = q.rst ∧
    (p.rst = false →
      match ph with
      | .idle => p.start = q.start
      | .startHigh => p.tick = q.tick
      | .startLow => p.tick = q.tick
      | .acquire => p.tick = q.tick ∧ (p.tick = true → p.din = q.din)
      | .decode => True)

/-- The phase after `ph` in the order of R11. -/
def followingPhase : Phase → Phase
  | .idle => .startHigh
  | .startHigh => .startLow
  | .startLow => .acquire
  | .acquire => .decode
  | .decode => .idle

/-- An edge with these inputs performs a HOLD operation in phase `ph` (rows 2, 4, 6, 8 of R49). -/
def holds (ph : Phase) (p : Pins) : Prop :=
  p.rst = false ∧
    match ph with
    | .idle => p.start = false
    | .startHigh => p.tick = false
    | .startLow => p.tick = false
    | .acquire => p.tick = false
    | .decode => False

/-- The moves of the pulse state that some rule makes, with the sample that makes them (R76 to R85). -/
def pulseMove (q : PState) (l : Level) : Option PState :=
  match q, l with
  | .initialPullDown, .low => some .initialPullUp
  | .initialPullUp, .high => some .dataFirstPullDown
  | .dataFirstPullDown, .low => some .dataPullUp
  | .dataPullUp, .high => some .dataPullDown
  | .dataPullDown, .low => some .dataPullUp
  | _, _ => none

/-- The words that select operation `i` are exactly those whose bits under `mask` are those of `m`: the
row of R49, and the encoding each operation's own rule repeats. -/
def hasPattern (i : Instr) (m mask : DispatchWord) : Prop :=
  ∀ w : DispatchWord, w &&& mask = m ↔ decode w = .ok i

/-- Five bytes as the frame that carries them, BYTE[0] first (R35). -/
def frameOf (b0 b1 b2 b3 b4 : Byte) : Frame := b0 ++ b1 ++ b2 ++ b3 ++ b4

end Sys2Proof.Claims

open Sys2Proof
open Sys2Proof.Machine
open Sys2Proof.Claims

/-! ### Encoding and selection -/

/-- R49: the pattern column (the encoder) and the match and mask columns (the decoder) say the same.
Every word written for an operation, whatever its ignored bits, is read as that operation, and every word
read as an operation is written by its pattern. -/
def Obligations.DecodeOfEncodeIsTheOperation : Prop :=
  (∀ i g, decode (encode i g) = .ok i) ∧ ∀ w i, decode w = .ok i → ∃ g, encode i g = w

/-- R50, R51: a word that R51 reserves is rejected under the clause that reserves it; every other word is
selected by exactly one row of R49, and is read as that row's operation. -/
def Obligations.EveryWordIsReservedOrSelectsOneRow : Prop :=
  ∀ w : DispatchWord,
    (reservedByPhase w → decode w = .error .reservedPhase) ∧
    (reservedByPState w → decode w = .error .reservedPState) ∧
    (¬reservedByPhase w → ¬reservedByPState w →
      ∃ r ∈ opTable, r.selects w = true ∧ decode w = .ok r.op ∧
        ∀ r' ∈ opTable, r'.selects w = true → r' = r)

/-- The words of the vectors V1 to V13 of spec/95_test_vectors.md and two more of its Part 2 decode to
the operations given there. -/
def Obligations.WrittenWordsDecode : Prop :=
  decode 0b1_0_1_1_011_101 = .ok .reset ∧
  decode 0b0_0_1_0_000_101 = .ok .idleHold ∧
  decode 0b0_1_0_0_000_101 = .ok .idleStart ∧
  decode 0b0_1_0_0_001_001 = .ok .sthHold ∧
  decode 0b0_0_1_1_001_001 = .ok .sthTick ∧
  decode 0b0_0_1_0_010_001 = .ok .stlTick ∧
  decode 0b0_0_0_1_011_101 = .ok .acqHold ∧
  decode 0b0_0_1_0_011_001 = .ok .ipdL ∧
  decode 0b0_0_1_0_011_101 = .ok .dpdL ∧
  decode 0b0_0_1_1_011_101 = .ok .dpdH ∧
  decode 0b0_1_1_1_100_001 = .ok .decode

/-- R7, R50: a step runs the decoded operation. The word is the one of R47, formed from the inputs of
this edge and from PHASE and PSTATE; around the operation the step only consumes those inputs and counts
the edge (the model's own fields, log entry 2). -/
def Obligations.StepRunsTheDecodedOperation : Prop :=
  ∀ s : State,
    (∀ i, decode s.dispatchWord = .ok i → step s = exec i s.clockEdge) ∧
    (s.dispatchWord.getLsbD 9 = s.nextPins.rst ∧ s.dispatchWord.getLsbD 8 = s.nextPins.start ∧
      s.dispatchWord.getLsbD 7 = s.nextPins.tick ∧
      (s.dispatchWord.getLsbD 6 = true ↔ s.nextPins.din = .high) ∧
      s.dispatchWord.extractLsb' 3 3 = s.phase.code ∧
      s.dispatchWord.extractLsb' 0 3 = s.pstate.code) ∧
    s.clockEdge = { s with pins := s.pins.tail, edge := s.edge + 1 } ∧
    ∀ p ps, s.pins = p :: ps → s.nextPins = p

/-- The column "selected when" of R49, row by row: which operation an edge performs, from its inputs,
PHASE and PSTATE. -/
def Obligations.EachRowIsPerformedWhenSelected : Prop :=
  ∀ s : State,
    let p := s.nextPins
    let t := s.clockEdge
    (p.rst = true → step s = exec .reset t) ∧
    (p.rst = false →
      (s.phase = .idle →
        (p.start = false → step s = exec .idleHold t) ∧
        (p.start = true → step s = exec .idleStart t)) ∧
      (s.phase = .startHigh →
        (p.tick = false → step s = exec .sthHold t) ∧ (p.tick = true → step s = exec .sthTick t)) ∧
      (s.phase = .startLow →
        (p.tick = false → step s = exec .stlHold t) ∧ (p.tick = true → step s = exec .stlTick t)) ∧
      (s.phase = .acquire →
        (p.tick = false → step s = exec .acqHold t) ∧
        (p.tick = true →
          (s.pstate = .initialPullDown →
            (p.din = .low → step s = exec .ipdL t) ∧ (p.din = .high → step s = exec .ipdH t)) ∧
          (s.pstate = .initialPullUp →
            (p.din = .low → step s = exec .ipuL t) ∧ (p.din = .high → step s = exec .ipuH t)) ∧
          (s.pstate = .dataFirstPullDown →
            (p.din = .low → step s = exec .dfpdL t) ∧ (p.din = .high → step s = exec .dfpdH t)) ∧
          (s.pstate = .dataPullUp →
            (p.din = .low → step s = exec .dpuL t) ∧ (p.din = .high → step s = exec .dpuH t)) ∧
          (s.pstate = .dataPullDown →
            (p.din = .low → step s = exec .dpdL t) ∧ (p.din = .high → step s = exec .dpdH t)))) ∧
      (s.phase = .decode → step s = exec .decode t))

/-- R51: no state forms a reserved word, so no step is refused. -/
def Obligations.NoStateFormsAReservedWord : Prop :=
  ∀ (s : State) r, step s ≠ .refused r

/-- The model's own interface (log entry 3): after `withFetchWord` the very next step runs the operation
the decoder reads from that word, also where the word's ignored bits hold codes that PHASE or PSTATE
cannot hold. -/
def Obligations.PlacedWordIsRunNext : Prop :=
  ∀ (s : State) (nbits w : Nat) (i : Instr), decodeTableWord nbits w = some i →
    step (s.withFetchWord nbits w) = exec i (s.withFetchWord nbits w).clockEdge

/-- R50: without the inputs that the current phase looks at, an edge cannot tell two input values apart:
`start` is ignored while a cycle runs (R63), `tick` and `din` outside the phases that use them, everything
but `rst` in DECODE, and everything else under `rst`. -/
def Obligations.UnseenInputsHaveNoEffect : Prop :=
  ∀ (s : State) (p q : Pins) (rest : List Pins), sameSeen s.phase p q →
    step (s.withPins (p :: rest)) = step (s.withPins (q :: rest))

/-! ### Reset, idle and holding -/

/-- R58: RESET puts every register at its reset value, whatever it held, and does not write P; at an edge
with `rst` = 1 it is performed in every phase; the line is then released. -/
def Obligations.ResetOperation : Prop :=
  ∀ s : State,
    exec .reset s =
      .next
        { phase := .idle, pstate := .initialPullDown, timer := 0, unch := 0, last := .low
          lastv := false, cnt := 0, pcount := 0, periods := s.periods, frame := 0, err := .noError
          rdy := false, hum := 0xFF, temp := 0xFF, pue := false
          params := s.params, pins := s.pins, edge := s.edge } ∧
    hasPattern .reset 0x200 0x200 ∧
    (s.nextPins.rst = true → step s = exec .reset s.clockEdge) ∧
    ∀ t, exec .reset s = .next t → t.lineOe = false

/-- R31: after RESET the outputs have the values R31 lists, STATUS is 0x0020 (R27), the registers that no
output shows are 0 and no entry of P holds a value; IDLE.START leaves the same but for PHASE. What RESET
leaves is `State.reset` but for the stale contents of P and the model's own fields. -/
def Obligations.ResetLeavesTheResetState : Prop :=
  ∀ s : State, ∃ t u, exec .reset s = .next t ∧ exec .idleStart s = .next u ∧
    t.outputs =
      { lineOe := false, lineOut := false, linePue := false, busy := false, rdy := false
        valid := false, err := 0, hum := 0xFF, temp := 0xFF, frame := 0, phase := 0, pstate := 1
        pcount := 0 } ∧
    t.status = 0x0020 ∧
    (t.timer = 0 ∧ t.unch = 0 ∧ t.last = .low ∧ t.lastv = false ∧ t.cnt = 0) ∧
    u = { t with phase := .startHigh } ∧
    (∀ i, t.period? i = none ∧ u.period? i = none) ∧
    t = { State.reset with periods := s.periods, params := s.params, pins := s.pins, edge := s.edge }

/-- R62: IDLE.START discards the previous result and puts every register but PHASE at its reset value;
P is not written; the line is then driven HIGH without pull-up. -/
def Obligations.IdleStartOperation : Prop :=
  ∀ s : State, ∃ t, exec .idleStart s = .next t ∧
    t =
      { phase := .startHigh, pstate := .initialPullDown, timer := 0, unch := 0, last := .low
        lastv := false, cnt := 0, pcount := 0, periods := s.periods, frame := 0, err := .noError
        rdy := false, hum := 0xFF, temp := 0xFF, pue := false
        params := s.params, pins := s.pins, edge := s.edge } ∧
    t.lineOe = true ∧ t.lineOut = true ∧ t.outputs.linePue = false ∧ (∀ i, t.period? i = none) ∧
    hasPattern .idleStart 0x100 0x338

/-- R59, R64, R66, R70: the four HOLD operations change no register and no entry of P. -/
def Obligations.HoldOperationsChangeNothing : Prop :=
  (∀ s : State,
    exec .idleHold s = .next s ∧ exec .sthHold s = .next s ∧ exec .stlHold s = .next s ∧
      exec .acqHold s = .next s) ∧
  hasPattern .idleHold 0x000 0x338 ∧ hasPattern .sthHold 0x008 0x2B8 ∧
    hasPattern .stlHold 0x010 0x2B8 ∧ hasPattern .acqHold 0x018 0x2B8

/-- R61, R59: for any number of edges on which the current phase holds (`start` = 0 in IDLE, `tick` = 0
in the start phases and in ACQUIRE, no reset) nothing changes but the consumed inputs: the block waits,
and a delivered result stands. -/
def Obligations.QuietEdgesChangeNothing : Prop :=
  ∀ (s : State) (ps rest : List Pins), (∀ p ∈ ps, holds s.phase p) → s.pins = ps ++ rest →
    core.run ps.length s = .next { s with pins := rest, edge := s.edge + ps.length }

/-! ### The start handshake -/

/-- R65: STH.TICK counts the ticks of START_HIGH and ends the phase at START_HIGH_TICKS − 1; the phase,
entered with TIMER = 0, lasts exactly START_HIGH_TICKS ticks whatever `start` and `din` are. -/
def Obligations.StartHighTick : Prop :=
  hasPattern .sthTick 0x088 0x2B8 ∧
  (∀ s : State, 1 ≤ s.params.startHighTicks →
    exec .sthTick s =
      .next
        (if s.timer.toNat = s.params.startHighTicks - 1 then
          { s with phase := .startLow, timer := 0 }
        else { s with timer := s.timer + 1 })) ∧
  ∀ (s : State) (ps rest : List Pins), s.params.wf → s.phase = .startHigh → s.timer = 0 →
    AllTicks ps → ps.length = s.params.startHighTicks → s.pins = ps ++ rest →
    core.run ps.length s =
        .next { s with phase := .startLow, timer := 0, pins := rest, edge := s.edge + ps.length } ∧
      ∀ k < ps.length, ∃ t, core.run k s = .next t ∧ t.phase = .startHigh

/-- R67: STL.TICK counts the ticks of START_LOW; the tick that ends the phase releases the line and
enables the pull-up in the same edge; the phase, entered with TIMER = 0, lasts exactly START_LOW_TICKS
ticks whatever `start` and `din` are. -/
def Obligations.StartLowTick : Prop :=
  hasPattern .stlTick 0x090 0x2B8 ∧
  (∀ s : State, 1 ≤ s.params.startLowTicks →
    exec .stlTick s =
      .next
        (if s.timer.toNat = s.params.startLowTicks - 1 then
          { s with phase := .acquire, timer := 0, pue := true }
        else { s with timer := s.timer + 1 })) ∧
  ∀ (s : State) (ps rest : List Pins), s.params.wf → s.phase = .startLow → s.timer = 0 →
    AllTicks ps → ps.length = s.params.startLowTicks → s.pins = ps ++ rest →
    core.run ps.length s =
        .next
          { s with
            phase := .acquire, timer := 0, pue := true, pins := rest, edge := s.edge + ps.length } ∧
      ∀ k < ps.length, ∃ t, core.run k s = .next t ∧ t.phase = .startLow

/-- R73: with a tick at every edge, the handshake takes one edge for IDLE.START and then exactly
START_HIGH_TICKS + START_LOW_TICKS ticks, after which the block is in ACQUIRE with the pull-up on, the
line released, no sample taken and no period recorded. The line is driven HIGH in the clock periods 1 to
START_HIGH_TICKS and LOW in the START_LOW_TICKS after them. -/
def Obligations.HandshakeReachesAcquire : Prop :=
  ∀ (s : State) (p : Pins) (ps rest : List Pins), s.params.wf → s.phase = .idle →
    p.rst = false → p.start = true → AllTicks ps →
    ps.length = s.params.startHighTicks + s.params.startLowTicks → s.pins = p :: (ps ++ rest) →
    ∃ t, core.run (ps.length + 1) s = .next t ∧ t.phase = .acquire ∧ t.pue = true ∧
      t.lineOe = false ∧ t.lastv = false ∧ t.pcount = 0 ∧ t.pstate = .initialPullDown ∧
      t.rdy = false ∧ t.pins = rest ∧ t.params = s.params ∧
      ∀ k, 1 ≤ k → k ≤ ps.length → ∃ u, core.run k s = .next u ∧ u.lineOe = true ∧
        (u.lineOut = true ↔ k ≤ s.params.startHighTicks)

/-- The frame of the sequencer operations, R58 to R70: none writes P; only RESET and IDLE.START write
the acquisition registers and the result registers; PUE is written by them and by STL.TICK; TIMER and
PHASE by them and by the two start ticks. -/
def Obligations.SequencerFrame : Prop :=
  ∀ (i : Instr) (s t : State), exec i s = .next t →
    (i = .reset ∨ i = .idleHold ∨ i = .idleStart ∨ i = .sthHold ∨ i = .sthTick ∨ i = .stlHold ∨
      i = .stlTick ∨ i = .acqHold) →
    (∀ a, t.periods.read a = s.periods.read a) ∧
    (t.params = s.params ∧ t.pins = s.pins ∧ t.edge = s.edge) ∧
    (i ≠ .reset → i ≠ .idleStart →
      t.pstate = s.pstate ∧ t.unch = s.unch ∧ t.last = s.last ∧ t.lastv = s.lastv ∧
      t.cnt = s.cnt ∧ t.pcount = s.pcount ∧ t.frame = s.frame ∧ t.err = s.err ∧ t.rdy = s.rdy ∧
      t.hum = s.hum ∧ t.temp = s.temp ∧
      (i ≠ .stlTick → t.pue = s.pue) ∧
      (i ≠ .sthTick → i ≠ .stlTick → t.phase = s.phase ∧ t.timer = s.timer))

/-! ### The sample operations -/

/-- R68, R69, R75: what all ten sample operations share. UNCH restarts at the first sample of a cycle
and at a change of level and else counts; LAST and LASTV take the sample; acquisition ends when UNCH has
reached IDLE_BOUND; CNT is incremented, but for the reset DPU.H makes after it. So UNCH is one less than
the length so far of the current run, and it is the (IDLE_BOUND + 1)-th sample of a run that ends
acquisition. -/
def Obligations.SampleOperationsShareTheIdleDetector : Prop :=
  (∀ (i : Instr) (l : Level) (s : State), sampleLevel i = some l → ∃ t, exec i s = .next t ∧
    t.unch = (if s.lastv = false ∨ l ≠ s.last then 0 else s.unch + 1) ∧
    t.last = l ∧ t.lastv = true ∧
    t.phase = (if t.unch.toNat = s.params.idleBound then .decode else s.phase) ∧
    (i ≠ .dpuH → t.cnt = s.cnt + 1)) ∧
  ∀ (s : State) (ps rest : List Pins) (l : Level), s.params.wf → s.phase = .acquire →
    (s.lastv = false ∨ l ≠ s.last) → AllTicks ps → (∀ p ∈ ps, p.din = l) → 1 ≤ ps.length →
    ps.length ≤ s.params.idleBound + 1 → s.pins = ps ++ rest →
    ∃ t, core.run ps.length s = .next t ∧ t.unch.toNat = ps.length - 1 ∧
      (t.phase = .decode ↔ ps.length = s.params.idleBound + 1)

/-- R77, R78, R81, R82, R85: a sample of the level the pulse state does not wait for is skipped. The
shared effect of R71 is all there is, and PSTATE stays. -/
def Obligations.SkippedSamplesOnlyCount : Prop :=
  (∀ s : State,
    exec .ipdH s = .next (sampled .high s) ∧ exec .ipuL s = .next (sampled .low s) ∧
    exec .dfpdH s = .next (sampled .high s) ∧ exec .dpuL s = .next (sampled .low s) ∧
    exec .dpdH s = .next (sampled .high s)) ∧
  hasPattern .ipdH 0x0D9 0x2FF ∧ hasPattern .ipuL 0x09A 0x2FF ∧ hasPattern .dfpdH 0x0DB 0x2FF ∧
    hasPattern .dpuL 0x09C 0x2FF ∧ hasPattern .dpdH 0x0DD 0x2FF

/-- R76, R79, R80: the three samples of the preamble move PSTATE 1 → 2 → 3 → 4 and record nothing. -/
def Obligations.PreambleSamplesAdvance : Prop :=
  (∀ s : State,
    exec .ipdL s = .next { sampled .low s with pstate := .initialPullUp } ∧
    exec .ipuH s = .next { sampled .high s with pstate := .dataFirstPullDown } ∧
    exec .dfpdL s = .next { sampled .low s with pstate := .dataPullUp }) ∧
  hasPattern .ipdL 0x099 0x2FF ∧ hasPattern .ipuH 0x0DA 0x2FF ∧ hasPattern .dfpdL 0x09B 0x2FF

/-- R83: DPU.H leaves CNT at 0, not 1, and moves to state 5. -/
def Obligations.FirstHighSampleRestartsTheCounter : Prop :=
  (∀ s : State, exec .dpuH s = .next { sampled .high s with cnt := 0, pstate := .dataPullDown }) ∧
  hasPattern .dpuH 0x0DC 0x2FF

/-- R84: DPD.L records the incremented CNT. Entry PCOUNT of P takes it where PCOUNT < 40, no other
entry changes, PCOUNT counts up to 41 and stays there, PSTATE goes back to 4, and nothing else but the
shared effect of R71 happens. -/
def Obligations.ClosingLowSampleRecordsThePeriod : Prop :=
  hasPattern .dpdL 0x09D 0x2FF ∧
  ∀ s : State, ∃ t, exec .dpdL s = .next t ∧
    (s.pcount.toNat < 40 → t.periods.read s.pcount.toNat = some (s.cnt + 1)) ∧
    (∀ a, ¬(s.pcount.toNat < 40 ∧ a = s.pcount.toNat) → t.periods.read a = s.periods.read a) ∧
    t.pcount = (if s.pcount.toNat < 41 then s.pcount + 1 else s.pcount) ∧
    t = { sampled .low s with pstate := .dataPullUp, pcount := t.pcount, periods := t.periods }

/-- The frame of the ten sample operations, R71 and R76 to R85: no result register, no PUE, no TIMER;
PCOUNT and P only by DPD.L, and of P only the entry PCOUNT; PSTATE only by the five that advance. -/
def Obligations.SampleFrame : Prop :=
  ∀ (i : Instr) (l : Level) (s t : State), sampleLevel i = some l → exec i s = .next t →
    t.timer = s.timer ∧ t.frame = s.frame ∧ t.err = s.err ∧ t.rdy = s.rdy ∧ t.hum = s.hum ∧
    t.temp = s.temp ∧ t.pue = s.pue ∧ t.params = s.params ∧ t.pins = s.pins ∧ t.edge = s.edge ∧
    (i ≠ .dpdL → t.pcount = s.pcount) ∧
    (∀ a, ¬(i = .dpdL ∧ s.pcount.toNat < 40 ∧ a = s.pcount.toNat) →
      t.periods.read a = s.periods.read a) ∧
    (i ≠ .ipdL → i ≠ .ipuH → i ≠ .dfpdL → i ≠ .dpuH → i ≠ .dpdL → t.pstate = s.pstate)

/-- R86: a HIGH run of `n` samples, entered in state 4 and closed by a LOW sample, is recorded as the
period `n`, into the next entry of P and no other. -/
def Obligations.PeriodIsTheLengthOfItsHighRun : Prop :=
  ∀ (s : State) (ps rest : List Pins) (q : Pins), s.params.wf → s.phase = .acquire →
    s.pstate = .dataPullUp → s.lastv = true → s.last = .low → s.pcount.toNat < 40 →
    1 ≤ ps.length → ps.length ≤ s.params.idleBound →
    AllTicks (ps ++ [q]) → (∀ p ∈ ps, p.din = .high) → q.din = .low → s.pins = ps ++ q :: rest →
    ∃ t, core.run (ps.length + 1) s = .next t ∧ t.phase = .acquire ∧ t.pstate = .dataPullUp ∧
      t.periods.read s.pcount.toNat = some (BitVec.ofNat 16 ps.length) ∧
      (∀ a, a ≠ s.pcount.toNat → t.periods.read a = s.periods.read a) ∧
      t.pcount = s.pcount + 1 ∧ t.pins = rest

/-- R88, R89, R72: what the block has recorded after any sequence of samples is the period sequence of
its runs, by the description R88 gives of it (`periodsOf`, the model's rendering of R88's words, log
entry 18), its length saturated at 41 and its first forty entries in P.
The premise on the runs is that no sample follows one that ends acquisition. There is no bound on the
length of the sequence (R126): a line whose runs all stay within IDLE_BOUND keeps the block in ACQUIRE. -/
def Obligations.MachineRecordsThePeriodsOfTheSamples : Prop :=
  ∀ (s : State) (ps rest : List Pins), Inv s → s.phase = .acquire → s.lastv = false →
    AllTicks ps → s.pins = ps ++ rest →
    let runs := runsOf (ps.map Pins.din)
    let periods := periodsOf (ps.map Pins.din)
    (∀ r ∈ runs.dropLast, r.len ≤ s.params.idleBound) → (∀ r ∈ runs, r.len ≤ s.params.idleBound + 1) →
    ∃ t, core.run ps.length s = .next t ∧
      t.pcount.toNat = min periods.length 41 ∧
      (∀ i < 40, (t.period? i).map BitVec.toNat = periods[i]?) ∧
      (t.phase = .decode ↔ ∃ r ∈ runs, r.len = s.params.idleBound + 1) ∧
      (t.phase = .acquire ↔ ∀ r ∈ runs, r.len ≤ s.params.idleBound)

/-- R131, R69: from any point of an acquisition, a line that stays at one level for IDLE_BOUND + 1 ticks
ends it. -/
def Obligations.StillLineEndsAcquisition : Prop :=
  ∀ (s : State) (ps rest : List Pins) (l : Level), Inv s → s.phase = .acquire →
    AllTicks ps → (∀ p ∈ ps, p.din = l) → ps.length = s.params.idleBound + 1 → s.pins = ps ++ rest →
    ∃ k ≤ s.params.idleBound + 1, ∃ t, core.run k s = .next t ∧ t.phase = .decode

/-! ### DECODE -/

/-- R91: a period count other than 40, and no other, gives MISSING_DATA whatever P holds; no other
sub-operation is performed, so FRAME, HUM and TEMP are untouched. -/
def Obligations.WrongPeriodCountIsMissingData : Prop :=
  (∀ s : State, s.pcount.toNat ≠ 40 →
    exec .decode s = .next { s with err := .missingData, rdy := true, phase := .idle }) ∧
  ∀ s t : State, exec .decode s = .next t → s.pcount.toNat = 40 → t.err ≠ .missingData

/-- R92, R94, R95: with forty periods, every bit of FRAME is the strict comparison of its doubled period
with the sum of the least and the greatest of the forty, the first period's bit in bit 39. In a block
that has been reset both extremes lie in 1..IDLE_BOUND. -/
def Obligations.PeriodsAreSlicedAgainstOneThreshold : Prop :=
  ∀ (s : State) (p : Nat → Period), s.pcount.toNat = 40 →
    (∀ i < 40, s.periods.read i = some (p i)) →
    ∃ t, exec .decode s = .next t ∧ ∃ lo hi,
      (∃ i < 40, (p i).toNat = lo) ∧ (∀ i < 40, lo ≤ (p i).toNat) ∧
      (∃ i < 40, (p i).toNat = hi) ∧ (∀ i < 40, (p i).toNat ≤ hi) ∧
      (Inv s → 1 ≤ lo ∧ hi ≤ s.params.idleBound) ∧
      ∀ i < 40, t.frame.getLsbD (39 - i) = decide (lo + hi < 2 * (p i).toNat)

/-- R96, R97: with forty periods, the frame is accepted exactly when its fifth byte is the sum of
the first four modulo 256. Accepted, ERR is NO_ERROR and HUM and TEMP are bytes 0 and 2; rejected, ERR is
CRC, HUM and TEMP are untouched and the frame is kept. Either way RDY is set and PHASE is IDLE. -/
def Obligations.ChecksumDecidesTheResult : Prop :=
  ∀ (s : State) (p : Nat → Period), s.pcount.toNat = 40 →
    (∀ i < 40, s.periods.read i = some (p i)) →
    ∃ t, exec .decode s = .next t ∧ t.rdy = true ∧ t.phase = .idle ∧
      let b0 := t.frame.extractLsb' 32 8
      let b1 := t.frame.extractLsb' 24 8
      let b2 := t.frame.extractLsb' 16 8
      let b3 := t.frame.extractLsb' 8 8
      let b4 := t.frame.extractLsb' 0 8
      ((b0.toNat + b1.toNat + b2.toNat + b3.toNat) % 256 = b4.toNat →
        t.err = .noError ∧ t.hum = b0 ∧ t.temp = b2) ∧
      ((b0.toNat + b1.toNat + b2.toNat + b3.toNat) % 256 ≠ b4.toNat →
        t.err = .crc ∧ t.hum = s.hum ∧ t.temp = s.temp)

/-- The frame of DECODE, R90: P, PCOUNT, PSTATE, CNT, UNCH, LAST, LASTV and PUE are not changed, and
neither are TIMER and the model's own fields. It is performed in DECODE whatever `start`, `tick`, `din`
and PSTATE are. -/
def Obligations.DecodeFrame : Prop :=
  hasPattern .decode 0x020 0x238 ∧
  ∀ s t : State, exec .decode s = .next t →
    (∀ a, t.periods.read a = s.periods.read a) ∧ t.pcount = s.pcount ∧ t.pstate = s.pstate ∧
    t.cnt = s.cnt ∧ t.unch = s.unch ∧ t.last = s.last ∧ t.lastv = s.lastv ∧ t.pue = s.pue ∧
    t.timer = s.timer ∧ t.params = s.params ∧ t.pins = s.pins ∧ t.edge = s.edge

/-- U7 of spec/93: where forty periods are counted and an entry of P holds no value, DECODE stops with
the fault that names the first such entry. No run from reset meets this state. -/
def Obligations.UnwrittenPeriodStopsDecode : Prop :=
  ∀ (s : State) (j : Nat), s.pcount.toNat = 40 → j < 40 → s.periods.read j = none →
    (∀ i < j, s.periods.read i ≠ none) → exec .decode s = .fault (.unwrittenPeriod j)

/-- R93: `sum` is exact on CW + 1 bits, and the doubled comparison is the comparison of the period with
the exact rational `halfway = shortest + (longest − shortest) / 2`, strictly. Truncating the half gives the
same decisions; rounding it up does not. -/
def Obligations.ThresholdIsTheRationalMidpoint : Prop :=
  (∀ lo hi p : Period,
    (thresh lo hi).toNat = lo.toNat + hi.toNat ∧
    (slice (thresh lo hi) p = true ↔
      (lo.toNat : ℚ) + ((hi.toNat : ℚ) - (lo.toNat : ℚ)) / 2 < (p.toNat : ℚ)) ∧
    (lo ≤ hi →
      (slice (thresh lo hi) p = true ↔ lo.toNat + (hi.toNat - lo.toNat) / 2 < p.toNat))) ∧
  ∃ lo hi p : Period, lo ≤ hi ∧
    ¬(slice (thresh lo hi) p = true ↔ lo.toNat + (hi.toNat - lo.toNat + 1) / 2 < p.toNat)

/-- R100 (a) to (d): the least period decodes to 0; the greatest decodes to 1 unless all are equal; equal
periods all decode to 0; adding one constant to all periods, or multiplying all by one positive constant,
changes no bit where no period leaves its CW bits. -/
def Obligations.ThresholdLaws : Prop :=
  ∀ ps : List Period,
    (∀ (i : Nat) (p : Period), ps[i]? = some p → (∀ q ∈ ps, p ≤ q) → (sliceAll ps)[i]? = some false) ∧
    (∀ (i : Nat) (p : Period), ps[i]? = some p → (∀ q ∈ ps, q ≤ p) → (∃ q ∈ ps, q ≠ p) →
      (sliceAll ps)[i]? = some true) ∧
    (∀ v, (∀ q ∈ ps, q = v) → ∀ b ∈ sliceAll ps, b = false) ∧
    (∀ c : Period, (∀ q ∈ ps, q.toNat + c.toNat < 2 ^ 16) →
      sliceAll (ps.map (fun q => q + c)) = sliceAll ps) ∧
    (∀ k : Period, k ≠ 0 → (∀ q ∈ ps, q.toNat * k.toNat < 2 ^ 16) →
      sliceAll (ps.map (fun q => q * k)) = sliceAll ps)

/-- R101: forty equal periods are reported as a valid reading of 0 and 0. -/
def Obligations.EqualPeriodsReadAsZero : Prop :=
  ∀ (s : State) (v : Period), s.pcount.toNat = 40 → (∀ i < 40, s.periods.read i = some v) →
    exec .decode s =
      .next { s with frame := 0, err := .noError, hum := 0, temp := 0, rdy := true, phase := .idle }

/-- R99: DECODE's result depends on PCOUNT and on the periods alone. Two states that agree on these, with
the result registers cleared as they are before every DECODE (R62), end with the same result, or both
stop; nothing carried over from an earlier cycle, stale entries of P included, can be learnt from it. -/
def Obligations.ResultDependsOnThePeriodsAlone : Prop :=
  ∀ s s' : State, s.pcount = s'.pcount → (∀ i < 40, s.period? i = s'.period? i) →
    ResultCleared s → ResultCleared s' →
    (∀ t, exec .decode s = .next t → ∃ t', exec .decode s' = .next t' ∧
      t'.err = t.err ∧ t'.hum = t.hum ∧ t'.temp = t.temp ∧ t'.frame = t.frame ∧ t'.rdy = t.rdy) ∧
    ∀ r, exec .decode s = .fault r → exec .decode s' = .fault r

/-- R55: from cleared result registers DECODE delivers one of exactly three shapes, never two at once. -/
def Obligations.ResultHasOneOfThreeShapes : Prop :=
  ∀ s t : State, ResultCleared s → exec .decode s = .next t → t.rdy = true ∧ ResultShape t

/-- R33, R34: P is written by DPD.L alone and read by DECODE alone, and by DECODE only where PCOUNT is 40:
otherwise an operation does the same whatever P holds. -/
def Obligations.PeriodMemoryHasOneWriterAndOneReader : Prop :=
  (∀ (i : Instr) (s t : State), i ≠ .dpdL → exec i s = .next t → t.periods = s.periods) ∧
  ∀ (i : Instr) (s : State) (m : Memory), i ≠ .decode ∨ s.pcount.toNat ≠ 40 →
    ∃ t t', exec i s = .next t ∧ exec i { s with periods := m } = .next t' ∧
      t = { t' with periods := t.periods }

/-! ### Outputs and flags -/

/-- R26: every output port as a function of the state; and the numbers that the ports `err`, `phase` and
`pstate` show for each name, by R44, R45 and R46. No state shows 3 on `err`, nor a reserved code on the
other two. -/
def Obligations.OutputPorts : Prop :=
  ∀ s : State,
    (s.outputs.lineOe = true ↔ s.phase = .startHigh ∨ s.phase = .startLow) ∧
    (s.outputs.lineOut = true ↔ s.phase = .startHigh) ∧
    s.outputs.linePue = s.pue ∧
    (s.outputs.busy = true ↔ s.phase ≠ .idle) ∧
    s.outputs.rdy = s.rdy ∧
    (s.outputs.valid = true ↔ s.rdy = true ∧ s.err = .noError) ∧
    s.outputs.err = s.err.code ∧ s.outputs.hum = s.hum ∧ s.outputs.temp = s.temp ∧
    s.outputs.frame = s.frame ∧ s.outputs.phase = s.phase.code ∧
    s.outputs.pstate = s.pstate.code ∧ s.outputs.pcount = s.pcount ∧
    ((s.outputs.err = 0 ↔ s.err = .noError) ∧ (s.outputs.err = 1 ↔ s.err = .missingData) ∧
      (s.outputs.err = 2 ↔ s.err = .crc) ∧ s.outputs.err ≠ 3) ∧
    ((s.outputs.phase = 0 ↔ s.phase = .idle) ∧ (s.outputs.phase = 1 ↔ s.phase = .startHigh) ∧
      (s.outputs.phase = 2 ↔ s.phase = .startLow) ∧ (s.outputs.phase = 3 ↔ s.phase = .acquire) ∧
      (s.outputs.phase = 4 ↔ s.phase = .decode) ∧ s.outputs.phase ≤ 4) ∧
    ((s.outputs.pstate = 1 ↔ s.pstate = .initialPullDown) ∧
      (s.outputs.pstate = 2 ↔ s.pstate = .initialPullUp) ∧
      (s.outputs.pstate = 3 ↔ s.pstate = .dataFirstPullDown) ∧
      (s.outputs.pstate = 4 ↔ s.pstate = .dataPullUp) ∧
      (s.outputs.pstate = 5 ↔ s.pstate = .dataPullDown) ∧
      1 ≤ s.outputs.pstate ∧ s.outputs.pstate ≤ 5)

/-- R44, and code(K) of R104: the number on `err` after DECODE says which outcome the cycle had. It is 1
where the period count was not 40, 2 where it was and the checksum of the delivered frame does not match,
0 where both checks passed; `raise` puts 1 for MISSING_DATA and 2 for CRC; and no state shows 3. -/
def Obligations.ErrCodeTellsTheOutcome : Prop :=
  (∀ s t : State, exec .decode s = .next t →
    (t.outputs.err = 1 ↔ s.pcount.toNat ≠ 40) ∧
    (t.outputs.err = 2 ↔ s.pcount.toNat = 40 ∧ csum t.frame ≠ byteOf t.frame 4) ∧
    (t.outputs.err = 0 ↔ s.pcount.toNat = 40 ∧ csum t.frame = byteOf t.frame 4)) ∧
  ∀ s : State,
    (s.raise .missingData).outputs.err = 1 ∧ (s.raise .crc).outputs.err = 2 ∧ s.outputs.err ≠ 3

/-- R27: the fields of STATUS, and its value after reset. -/
def Obligations.StatusLayout : Prop :=
  (∀ s : State,
    s.status.extractLsb' 0 2 = s.err.code ∧ s.status.getLsbD 2 = s.rdy ∧
    (s.status.getLsbD 3 = true ↔ s.phase ≠ .idle) ∧
    (s.status.getLsbD 4 = true ↔ s.rdy = true ∧ s.err = .noError) ∧
    s.status.extractLsb' 5 3 = s.pstate.code ∧ s.status.extractLsb' 8 6 = s.pcount ∧
    s.status.getLsbD 14 = s.pue ∧ s.status.getLsbD 15 = false) ∧
  State.reset.status = 0x0020

/-- R57: the line outputs of each phase, in every state of a block that has been reset. In IDLE the
pull-up tells a completed cycle from a fresh reset. -/
def Obligations.LineOutputsByPhase : Prop :=
  ∀ s : State, Inv s →
    (s.phase = .startHigh → s.lineOe = true ∧ s.lineOut = true ∧ s.outputs.linePue = false) ∧
    (s.phase = .startLow → s.lineOe = true ∧ s.lineOut = false ∧ s.outputs.linePue = false) ∧
    (s.phase = .acquire ∨ s.phase = .decode →
      s.lineOe = false ∧ s.lineOut = false ∧ s.outputs.linePue = true) ∧
    (s.phase = .idle → s.lineOe = false ∧ s.lineOut = false ∧ s.outputs.linePue = s.rdy)

/-- R28: RDY is set by DECODE and cleared by RESET and IDLE.START; ERR is written by DECODE with the kind
of the first failing check, or NO_ERROR, and cleared by RESET and IDLE.START; no other operation writes
either; and no operation's behaviour depends on them. -/
def Obligations.FlagsAreWrittenByThreeOperationsAndReadByNone : Prop :=
  (∀ (i : Instr) (s t : State), exec i s = .next t →
    (i = .decode → t.rdy = true ∧
      t.err =
        if s.pcount.toNat ≠ 40 then .missingData else if csumOk t.frame then .noError else .crc) ∧
    (i = .reset ∨ i = .idleStart → t.rdy = false ∧ t.err = .noError) ∧
    (i ≠ .decode → i ≠ .reset → i ≠ .idleStart → t.rdy = s.rdy ∧ t.err = s.err)) ∧
  ∀ (i : Instr) (s : State) (e : ErrKind) (r : Bool),
    (∀ t, exec i s = .next t → ∃ t', exec i { s with err := e, rdy := r } = .next t' ∧
      { t' with err := t.err, rdy := t.rdy } = t) ∧
    ∀ f, exec i s = .fault f → exec i { s with err := e, rdy := r } = .fault f

/-! ### The whole machine -/

/-- The invariant holds right after reset. -/
def Obligations.InvariantHoldsAtReset : Prop := Inv State.reset

/-- Every clock edge keeps the invariant, from every state that has it: the parameters stay legal, P
keeps its canonical form, recorded periods stay within 1 and IDLE_BOUND, every counter keeps its bound,
results keep their shapes and the pull-up follows the phase. -/
def Obligations.EveryStepKeepsTheInvariant : Prop :=
  ∀ s t : State, Inv s → step s = .next t → Inv t

/-- R34, R51: a block that has been reset never stops: every edge has a next state. -/
def Obligations.NoFaultFromAnInvariantState : Prop := ∀ s : State, Inv s → ∃ t, step s = .next t

/-- R87: CNT never wraps. In a block that has been reset, a sample other than the one that zeroes CNT
makes it one greater as an integer, and it stays at most 4 × IDLE_BOUND + 1. -/
def Obligations.CounterNeverWraps : Prop :=
  ∀ s t : State, Inv s → step s = .next t →
    t.cnt.toNat ≤ 4 * s.params.idleBound + 1 ∧
    (s.phase = .acquire → s.nextPins.rst = false → s.nextPins.tick = true →
      ¬(s.pstate = .dataPullUp ∧ s.nextPins.din = .high) → t.cnt.toNat = s.cnt.toNat + 1)

/-- R11, R13: PHASE moves only to the next phase of the cycle, or to IDLE under `rst`. -/
def Obligations.PhasesFollowTheirOrder : Prop :=
  ∀ s t : State, step s = .next t →
    (s.nextPins.rst = true → t.phase = .idle) ∧
    (s.nextPins.rst = false → t.phase = s.phase ∨ t.phase = followingPhase s.phase)

/-- R12: PSTATE is set to 1 by RESET and by IDLE.START, and otherwise moves only in ACQUIRE, at a
tick, on the sample its state waits for; so it never goes back to 1, 2 or 3 within a cycle. -/
def Obligations.PulseStatesFollowTheirOrder : Prop :=
  ∀ s t : State, step s = .next t →
    (s.nextPins.rst = true ∨ (s.phase = .idle ∧ s.nextPins.start = true) →
      t.pstate = .initialPullDown) ∧
    (s.nextPins.rst = false → ¬(s.phase = .idle ∧ s.nextPins.start = true) →
      t.pstate =
        if s.phase = .acquire ∧ s.nextPins.tick = true then
          (pulseMove s.pstate s.nextPins.din).getD s.pstate
        else s.pstate)

/-- The model's own choice (log entry 1): the parameters a State carries are never changed by a step. -/
def Obligations.ParametersNeverChange : Prop :=
  ∀ s t : State, step s = .next t → t.params = s.params

/-- R60: with `start` still 1 at the edge after DECODE, IDLE.START is performed at that edge: the result
is visible for exactly one clock period. That the first edge already delivers the result rests on DECODE
taking one edge (log entry 10); an implementation may take more, and this says nothing of its latency. -/
def Obligations.HeldStartShowsTheResultForOnePeriod : Prop :=
  ∀ (s : State) (p q : Pins) (rest : List Pins), Inv s → s.phase = .decode →
    s.pins = p :: q :: rest → p.rst = false → q.rst = false → q.start = true →
    ∃ t u, step s = .next t ∧ t.rdy = true ∧ t.phase = .idle ∧
      step t = .next u ∧ u.rdy = false ∧ u.phase = .startHigh ∧ ResultCleared u

/-- R2, R42, R43, R54, R90: a frame sent is the frame reported. For a well-formed read (the preamble,
forty bits whose HIGH runs are all `sh` or all `lg` samples long as their bits are 0 or 1, a closing LOW,
and an idle line), with every run within IDLE_BOUND but the last, the cycle ends with exactly that frame,
and with a valid reading or a checksum failure by its fifth byte. The one frame excluded is forty 1 bits,
which the adaptive threshold cannot reproduce (R102). The length of the run, one edge after the last sample,
rests on DECODE taking one edge (log entry 10); an implementation may take more, and this says nothing of
its latency. -/
def Obligations.FrameSentIsTheFrameReported : Prop :=
  ∀ (s : State) (b0 b1 b2 b3 b4 : Byte) (a b c lo sh lg lo' : Nat) (ps rest : List Pins) (q : Pins),
    Inv s → s.phase = .acquire → s.lastv = false →
    a ≤ s.params.idleBound → (1 ≤ b ∧ b ≤ s.params.idleBound) → (1 ≤ c ∧ c ≤ s.params.idleBound) →
    (1 ≤ lo ∧ lo ≤ s.params.idleBound) → (1 ≤ sh ∧ sh < lg ∧ lg ≤ s.params.idleBound) →
    (1 ≤ lo' ∧ lo' ≤ s.params.idleBound) → frameOf b0 b1 b2 b3 b4 ≠ BitVec.allOnes 40 →
    AllTicks ps → q.rst = false → s.pins = ps ++ q :: rest →
    ps.map Pins.din =
      programSamples s.params.idleBound
        [.pre a b c, .frame5 b0 b1 b2 b3 b4 lo sh lg, .endLow lo', .idleH] →
    ∃ t, core.run (ps.length + 1) s = .next t ∧ t.phase = .idle ∧ t.rdy = true ∧
      t.frame = frameOf b0 b1 b2 b3 b4 ∧
      ((b0.toNat + b1.toNat + b2.toNat + b3.toNat) % 256 = b4.toNat →
        t.valid = true ∧ t.hum = b0 ∧ t.temp = b2) ∧
      ((b0.toNat + b1.toNat + b2.toNat + b3.toNat) % 256 ≠ b4.toNat →
        t.valid = false ∧ t.err = .crc ∧ t.hum = 0xFF ∧ t.temp = 0xFF)

/-- R53: the hexadecimal form of a program holds its samples most-significant-bit first, eight a byte,
with 0 bits after the last sample. -/
def Obligations.PackedSamplesKeepEverySample : Prop :=
  ∀ ls : List Level,
    (packSamples ls).length = (ls.length + 7) / 8 ∧
    ∀ i < 8 * (packSamples ls).length,
      ((packSamples ls)[i / 8]?).map (fun v => v.getMsbD (i % 8)) =
        some ((ls[i]?).elim false Level.bit)
end

