-- ==== Sys2Proof/Laws/State.lean ====
section
/-! SUPPORT. One lemma per field and named update of State: what the field holds afterwards. Provers
cite these (simp does so by itself) instead of unfolding an update. -/

set_option Elab.async false

namespace Sys2Proof.Machine

/-! ### Fields after the passing of an edge -/

@[simp] theorem State.clockEdge_phase (s : State) : s.clockEdge.phase = s.phase := rfl
@[simp] theorem State.clockEdge_pstate (s : State) : s.clockEdge.pstate = s.pstate := rfl
@[simp] theorem State.clockEdge_timer (s : State) : s.clockEdge.timer = s.timer := rfl
@[simp] theorem State.clockEdge_unch (s : State) : s.clockEdge.unch = s.unch := rfl
@[simp] theorem State.clockEdge_last (s : State) : s.clockEdge.last = s.last := rfl
@[simp] theorem State.clockEdge_lastv (s : State) : s.clockEdge.lastv = s.lastv := rfl
@[simp] theorem State.clockEdge_cnt (s : State) : s.clockEdge.cnt = s.cnt := rfl
@[simp] theorem State.clockEdge_pcount (s : State) : s.clockEdge.pcount = s.pcount := rfl
@[simp] theorem State.clockEdge_periods (s : State) : s.clockEdge.periods = s.periods := rfl
@[simp] theorem State.clockEdge_frame (s : State) : s.clockEdge.frame = s.frame := rfl
@[simp] theorem State.clockEdge_err (s : State) : s.clockEdge.err = s.err := rfl
@[simp] theorem State.clockEdge_rdy (s : State) : s.clockEdge.rdy = s.rdy := rfl
@[simp] theorem State.clockEdge_hum (s : State) : s.clockEdge.hum = s.hum := rfl
@[simp] theorem State.clockEdge_temp (s : State) : s.clockEdge.temp = s.temp := rfl
@[simp] theorem State.clockEdge_pue (s : State) : s.clockEdge.pue = s.pue := rfl
@[simp] theorem State.clockEdge_params (s : State) : s.clockEdge.params = s.params := rfl
@[simp] theorem State.clockEdge_pins (s : State) : s.clockEdge.pins = s.pins.tail := rfl
@[simp] theorem State.clockEdge_edge (s : State) : s.clockEdge.edge = s.edge + 1 := rfl

/-! ### Fields after placing inputs -/

@[simp] theorem State.withPins_phase (s : State) (ps : List Pins) :
    (s.withPins ps).phase = s.phase := rfl
@[simp] theorem State.withPins_pstate (s : State) (ps : List Pins) :
    (s.withPins ps).pstate = s.pstate := rfl
@[simp] theorem State.withPins_timer (s : State) (ps : List Pins) :
    (s.withPins ps).timer = s.timer := rfl
@[simp] theorem State.withPins_unch (s : State) (ps : List Pins) :
    (s.withPins ps).unch = s.unch := rfl
@[simp] theorem State.withPins_last (s : State) (ps : List Pins) :
    (s.withPins ps).last = s.last := rfl
@[simp] theorem State.withPins_lastv (s : State) (ps : List Pins) :
    (s.withPins ps).lastv = s.lastv := rfl
@[simp] theorem State.withPins_cnt (s : State) (ps : List Pins) : (s.withPins ps).cnt = s.cnt := rfl
@[simp] theorem State.withPins_pcount (s : State) (ps : List Pins) :
    (s.withPins ps).pcount = s.pcount := rfl
@[simp] theorem State.withPins_periods (s : State) (ps : List Pins) :
    (s.withPins ps).periods = s.periods := rfl
@[simp] theorem State.withPins_frame (s : State) (ps : List Pins) :
    (s.withPins ps).frame = s.frame := rfl
@[simp] theorem State.withPins_err (s : State) (ps : List Pins) : (s.withPins ps).err = s.err := rfl
@[simp] theorem State.withPins_rdy (s : State) (ps : List Pins) : (s.withPins ps).rdy = s.rdy := rfl
@[simp] theorem State.withPins_hum (s : State) (ps : List Pins) : (s.withPins ps).hum = s.hum := rfl
@[simp] theorem State.withPins_temp (s : State) (ps : List Pins) :
    (s.withPins ps).temp = s.temp := rfl
@[simp] theorem State.withPins_pue (s : State) (ps : List Pins) : (s.withPins ps).pue = s.pue := rfl
@[simp] theorem State.withPins_params (s : State) (ps : List Pins) :
    (s.withPins ps).params = s.params := rfl
@[simp] theorem State.withPins_pins (s : State) (ps : List Pins) : (s.withPins ps).pins = ps := rfl
@[simp] theorem State.withPins_edge (s : State) (ps : List Pins) :
    (s.withPins ps).edge = s.edge := rfl

/-! ### Fields after the start of a fresh cycle -/

@[simp] theorem State.clear_phase (s : State) (ph : Phase) : (s.clear ph).phase = ph := rfl
@[simp] theorem State.clear_pstate (s : State) (ph : Phase) :
    (s.clear ph).pstate = .initialPullDown := rfl
@[simp] theorem State.clear_timer (s : State) (ph : Phase) : (s.clear ph).timer = 0 := rfl
@[simp] theorem State.clear_unch (s : State) (ph : Phase) : (s.clear ph).unch = 0 := rfl
@[simp] theorem State.clear_last (s : State) (ph : Phase) : (s.clear ph).last = .low := rfl
@[simp] theorem State.clear_lastv (s : State) (ph : Phase) : (s.clear ph).lastv = false := rfl
@[simp] theorem State.clear_cnt (s : State) (ph : Phase) : (s.clear ph).cnt = 0 := rfl
@[simp] theorem State.clear_pcount (s : State) (ph : Phase) : (s.clear ph).pcount = 0 := rfl
@[simp] theorem State.clear_periods (s : State) (ph : Phase) :
    (s.clear ph).periods = s.periods := rfl
@[simp] theorem State.clear_frame (s : State) (ph : Phase) : (s.clear ph).frame = 0 := rfl
@[simp] theorem State.clear_err (s : State) (ph : Phase) : (s.clear ph).err = .noError := rfl
@[simp] theorem State.clear_rdy (s : State) (ph : Phase) : (s.clear ph).rdy = false := rfl
@[simp] theorem State.clear_hum (s : State) (ph : Phase) : (s.clear ph).hum = Config.nan8 := rfl
@[simp] theorem State.clear_temp (s : State) (ph : Phase) : (s.clear ph).temp = Config.nan8 := rfl
@[simp] theorem State.clear_pue (s : State) (ph : Phase) : (s.clear ph).pue = false := rfl
@[simp] theorem State.clear_params (s : State) (ph : Phase) : (s.clear ph).params = s.params := rfl
@[simp] theorem State.clear_pins (s : State) (ph : Phase) : (s.clear ph).pins = s.pins := rfl
@[simp] theorem State.clear_edge (s : State) (ph : Phase) : (s.clear ph).edge = s.edge := rfl

/-! ### Fields after the counter increment -/

@[simp] theorem State.countSample_phase (s : State) : s.countSample.phase = s.phase := rfl
@[simp] theorem State.countSample_pstate (s : State) : s.countSample.pstate = s.pstate := rfl
@[simp] theorem State.countSample_timer (s : State) : s.countSample.timer = s.timer := rfl
@[simp] theorem State.countSample_unch (s : State) : s.countSample.unch = s.unch := rfl
@[simp] theorem State.countSample_last (s : State) : s.countSample.last = s.last := rfl
@[simp] theorem State.countSample_lastv (s : State) : s.countSample.lastv = s.lastv := rfl
@[simp] theorem State.countSample_cnt (s : State) : s.countSample.cnt = s.cnt + 1 := rfl
@[simp] theorem State.countSample_pcount (s : State) : s.countSample.pcount = s.pcount := rfl
@[simp] theorem State.countSample_periods (s : State) : s.countSample.periods = s.periods := rfl
@[simp] theorem State.countSample_frame (s : State) : s.countSample.frame = s.frame := rfl
@[simp] theorem State.countSample_err (s : State) : s.countSample.err = s.err := rfl
@[simp] theorem State.countSample_rdy (s : State) : s.countSample.rdy = s.rdy := rfl
@[simp] theorem State.countSample_hum (s : State) : s.countSample.hum = s.hum := rfl
@[simp] theorem State.countSample_temp (s : State) : s.countSample.temp = s.temp := rfl
@[simp] theorem State.countSample_pue (s : State) : s.countSample.pue = s.pue := rfl
@[simp] theorem State.countSample_params (s : State) : s.countSample.params = s.params := rfl
@[simp] theorem State.countSample_pins (s : State) : s.countSample.pins = s.pins := rfl
@[simp] theorem State.countSample_edge (s : State) : s.countSample.edge = s.edge := rfl

/-! ### Fields after a move of the pulse state -/

@[simp] theorem State.moveTo_phase (s : State) (q : PState) : (s.moveTo q).phase = s.phase := rfl
@[simp] theorem State.moveTo_pstate (s : State) (q : PState) : (s.moveTo q).pstate = q := rfl
@[simp] theorem State.moveTo_timer (s : State) (q : PState) : (s.moveTo q).timer = s.timer := rfl
@[simp] theorem State.moveTo_unch (s : State) (q : PState) : (s.moveTo q).unch = s.unch := rfl
@[simp] theorem State.moveTo_last (s : State) (q : PState) : (s.moveTo q).last = s.last := rfl
@[simp] theorem State.moveTo_lastv (s : State) (q : PState) : (s.moveTo q).lastv = s.lastv := rfl
@[simp] theorem State.moveTo_cnt (s : State) (q : PState) : (s.moveTo q).cnt = s.cnt := rfl
@[simp] theorem State.moveTo_pcount (s : State) (q : PState) : (s.moveTo q).pcount = s.pcount := rfl
@[simp] theorem State.moveTo_periods (s : State) (q : PState) :
    (s.moveTo q).periods = s.periods := rfl
@[simp] theorem State.moveTo_frame (s : State) (q : PState) : (s.moveTo q).frame = s.frame := rfl
@[simp] theorem State.moveTo_err (s : State) (q : PState) : (s.moveTo q).err = s.err := rfl
@[simp] theorem State.moveTo_rdy (s : State) (q : PState) : (s.moveTo q).rdy = s.rdy := rfl
@[simp] theorem State.moveTo_hum (s : State) (q : PState) : (s.moveTo q).hum = s.hum := rfl
@[simp] theorem State.moveTo_temp (s : State) (q : PState) : (s.moveTo q).temp = s.temp := rfl
@[simp] theorem State.moveTo_pue (s : State) (q : PState) : (s.moveTo q).pue = s.pue := rfl
@[simp] theorem State.moveTo_params (s : State) (q : PState) : (s.moveTo q).params = s.params := rfl
@[simp] theorem State.moveTo_pins (s : State) (q : PState) : (s.moveTo q).pins = s.pins := rfl
@[simp] theorem State.moveTo_edge (s : State) (q : PState) : (s.moveTo q).edge = s.edge := rfl

/-! ### Fields after the counter reset -/

@[simp] theorem State.zeroCount_phase (s : State) : s.zeroCount.phase = s.phase := rfl
@[simp] theorem State.zeroCount_pstate (s : State) : s.zeroCount.pstate = s.pstate := rfl
@[simp] theorem State.zeroCount_timer (s : State) : s.zeroCount.timer = s.timer := rfl
@[simp] theorem State.zeroCount_unch (s : State) : s.zeroCount.unch = s.unch := rfl
@[simp] theorem State.zeroCount_last (s : State) : s.zeroCount.last = s.last := rfl
@[simp] theorem State.zeroCount_lastv (s : State) : s.zeroCount.lastv = s.lastv := rfl
@[simp] theorem State.zeroCount_cnt (s : State) : s.zeroCount.cnt = 0 := rfl
@[simp] theorem State.zeroCount_pcount (s : State) : s.zeroCount.pcount = s.pcount := rfl
@[simp] theorem State.zeroCount_periods (s : State) : s.zeroCount.periods = s.periods := rfl
@[simp] theorem State.zeroCount_frame (s : State) : s.zeroCount.frame = s.frame := rfl
@[simp] theorem State.zeroCount_err (s : State) : s.zeroCount.err = s.err := rfl
@[simp] theorem State.zeroCount_rdy (s : State) : s.zeroCount.rdy = s.rdy := rfl
@[simp] theorem State.zeroCount_hum (s : State) : s.zeroCount.hum = s.hum := rfl
@[simp] theorem State.zeroCount_temp (s : State) : s.zeroCount.temp = s.temp := rfl
@[simp] theorem State.zeroCount_pue (s : State) : s.zeroCount.pue = s.pue := rfl
@[simp] theorem State.zeroCount_params (s : State) : s.zeroCount.params = s.params := rfl
@[simp] theorem State.zeroCount_pins (s : State) : s.zeroCount.pins = s.pins := rfl
@[simp] theorem State.zeroCount_edge (s : State) : s.zeroCount.edge = s.edge := rfl

/-! ### Fields after recording a period -/

@[simp] theorem State.recordPeriod_phase (s : State) : s.recordPeriod.phase = s.phase := rfl
@[simp] theorem State.recordPeriod_pstate (s : State) : s.recordPeriod.pstate = s.pstate := rfl
@[simp] theorem State.recordPeriod_timer (s : State) : s.recordPeriod.timer = s.timer := rfl
@[simp] theorem State.recordPeriod_unch (s : State) : s.recordPeriod.unch = s.unch := rfl
@[simp] theorem State.recordPeriod_last (s : State) : s.recordPeriod.last = s.last := rfl
@[simp] theorem State.recordPeriod_lastv (s : State) : s.recordPeriod.lastv = s.lastv := rfl
@[simp] theorem State.recordPeriod_cnt (s : State) : s.recordPeriod.cnt = s.cnt := rfl
@[simp] theorem State.recordPeriod_pcount (s : State) :
    s.recordPeriod.pcount = if s.pcount.toNat < Config.pcountMax then s.pcount + 1 else s.pcount := rfl
@[simp] theorem State.recordPeriod_periods (s : State) : s.recordPeriod.periods = 
      if s.pcount.toNat < Config.nBits then s.periods.write s.pcount.toNat s.cnt else s.periods := rfl
@[simp] theorem State.recordPeriod_frame (s : State) : s.recordPeriod.frame = s.frame := rfl
@[simp] theorem State.recordPeriod_err (s : State) : s.recordPeriod.err = s.err := rfl
@[simp] theorem State.recordPeriod_rdy (s : State) : s.recordPeriod.rdy = s.rdy := rfl
@[simp] theorem State.recordPeriod_hum (s : State) : s.recordPeriod.hum = s.hum := rfl
@[simp] theorem State.recordPeriod_temp (s : State) : s.recordPeriod.temp = s.temp := rfl
@[simp] theorem State.recordPeriod_pue (s : State) : s.recordPeriod.pue = s.pue := rfl
@[simp] theorem State.recordPeriod_params (s : State) : s.recordPeriod.params = s.params := rfl
@[simp] theorem State.recordPeriod_pins (s : State) : s.recordPeriod.pins = s.pins := rfl
@[simp] theorem State.recordPeriod_edge (s : State) : s.recordPeriod.edge = s.edge := rfl

/-! ### Fields after raise -/

@[simp] theorem State.raise_phase (s : State) (k : Failure) : (s.raise k).phase = s.phase := rfl
@[simp] theorem State.raise_pstate (s : State) (k : Failure) : (s.raise k).pstate = s.pstate := rfl
@[simp] theorem State.raise_timer (s : State) (k : Failure) : (s.raise k).timer = s.timer := rfl
@[simp] theorem State.raise_unch (s : State) (k : Failure) : (s.raise k).unch = s.unch := rfl
@[simp] theorem State.raise_last (s : State) (k : Failure) : (s.raise k).last = s.last := rfl
@[simp] theorem State.raise_lastv (s : State) (k : Failure) : (s.raise k).lastv = s.lastv := rfl
@[simp] theorem State.raise_cnt (s : State) (k : Failure) : (s.raise k).cnt = s.cnt := rfl
@[simp] theorem State.raise_pcount (s : State) (k : Failure) : (s.raise k).pcount = s.pcount := rfl
@[simp] theorem State.raise_periods (s : State) (k : Failure) :
    (s.raise k).periods = s.periods := rfl
@[simp] theorem State.raise_frame (s : State) (k : Failure) : (s.raise k).frame = s.frame := rfl
@[simp] theorem State.raise_err (s : State) (k : Failure) : (s.raise k).err = k.errKind := rfl
@[simp] theorem State.raise_rdy (s : State) (k : Failure) : (s.raise k).rdy = s.rdy := rfl
@[simp] theorem State.raise_hum (s : State) (k : Failure) : (s.raise k).hum = s.hum := rfl
@[simp] theorem State.raise_temp (s : State) (k : Failure) : (s.raise k).temp = s.temp := rfl
@[simp] theorem State.raise_pue (s : State) (k : Failure) : (s.raise k).pue = s.pue := rfl
@[simp] theorem State.raise_params (s : State) (k : Failure) : (s.raise k).params = s.params := rfl
@[simp] theorem State.raise_pins (s : State) (k : Failure) : (s.raise k).pins = s.pins := rfl
@[simp] theorem State.raise_edge (s : State) (k : Failure) : (s.raise k).edge = s.edge := rfl

/-! ### Fields after COMMIT -/

@[simp] theorem State.commit_phase (s : State) (f : Frame) : (s.commit f).phase = s.phase := rfl
@[simp] theorem State.commit_pstate (s : State) (f : Frame) : (s.commit f).pstate = s.pstate := rfl
@[simp] theorem State.commit_timer (s : State) (f : Frame) : (s.commit f).timer = s.timer := rfl
@[simp] theorem State.commit_unch (s : State) (f : Frame) : (s.commit f).unch = s.unch := rfl
@[simp] theorem State.commit_last (s : State) (f : Frame) : (s.commit f).last = s.last := rfl
@[simp] theorem State.commit_lastv (s : State) (f : Frame) : (s.commit f).lastv = s.lastv := rfl
@[simp] theorem State.commit_cnt (s : State) (f : Frame) : (s.commit f).cnt = s.cnt := rfl
@[simp] theorem State.commit_pcount (s : State) (f : Frame) : (s.commit f).pcount = s.pcount := rfl
@[simp] theorem State.commit_periods (s : State) (f : Frame) :
    (s.commit f).periods = s.periods := rfl
@[simp] theorem State.commit_frame (s : State) (f : Frame) : (s.commit f).frame = s.frame := rfl
@[simp] theorem State.commit_err (s : State) (f : Frame) : (s.commit f).err = .noError := rfl
@[simp] theorem State.commit_rdy (s : State) (f : Frame) : (s.commit f).rdy = s.rdy := rfl
@[simp] theorem State.commit_hum (s : State) (f : Frame) : (s.commit f).hum = byteOf f 0 := rfl
@[simp] theorem State.commit_temp (s : State) (f : Frame) : (s.commit f).temp = byteOf f 2 := rfl
@[simp] theorem State.commit_pue (s : State) (f : Frame) : (s.commit f).pue = s.pue := rfl
@[simp] theorem State.commit_params (s : State) (f : Frame) : (s.commit f).params = s.params := rfl
@[simp] theorem State.commit_pins (s : State) (f : Frame) : (s.commit f).pins = s.pins := rfl
@[simp] theorem State.commit_edge (s : State) (f : Frame) : (s.commit f).edge = s.edge := rfl

/-! ### Fields after completing a cycle -/

@[simp] theorem State.complete_phase (s : State) : s.complete.phase = .idle := rfl
@[simp] theorem State.complete_pstate (s : State) : s.complete.pstate = s.pstate := rfl
@[simp] theorem State.complete_timer (s : State) : s.complete.timer = s.timer := rfl
@[simp] theorem State.complete_unch (s : State) : s.complete.unch = s.unch := rfl
@[simp] theorem State.complete_last (s : State) : s.complete.last = s.last := rfl
@[simp] theorem State.complete_lastv (s : State) : s.complete.lastv = s.lastv := rfl
@[simp] theorem State.complete_cnt (s : State) : s.complete.cnt = s.cnt := rfl
@[simp] theorem State.complete_pcount (s : State) : s.complete.pcount = s.pcount := rfl
@[simp] theorem State.complete_periods (s : State) : s.complete.periods = s.periods := rfl
@[simp] theorem State.complete_frame (s : State) : s.complete.frame = s.frame := rfl
@[simp] theorem State.complete_err (s : State) : s.complete.err = s.err := rfl
@[simp] theorem State.complete_rdy (s : State) : s.complete.rdy = true := rfl
@[simp] theorem State.complete_hum (s : State) : s.complete.hum = s.hum := rfl
@[simp] theorem State.complete_temp (s : State) : s.complete.temp = s.temp := rfl
@[simp] theorem State.complete_pue (s : State) : s.complete.pue = s.pue := rfl
@[simp] theorem State.complete_params (s : State) : s.complete.params = s.params := rfl
@[simp] theorem State.complete_pins (s : State) : s.complete.pins = s.pins := rfl
@[simp] theorem State.complete_edge (s : State) : s.complete.edge = s.edge := rfl

/-! ### Fields after the idle detector -/

@[simp] theorem State.idleDetect_phase (s : State) (l : Level) :
    (s.idleDetect l).phase = s.phase := by
  unfold State.idleDetect; split <;> rfl
@[simp] theorem State.idleDetect_pstate (s : State) (l : Level) :
    (s.idleDetect l).pstate = s.pstate := by
  unfold State.idleDetect; split <;> rfl
@[simp] theorem State.idleDetect_timer (s : State) (l : Level) :
    (s.idleDetect l).timer = s.timer := by
  unfold State.idleDetect; split <;> rfl
@[simp] theorem State.idleDetect_unch (s : State) (l : Level) :
    (s.idleDetect l).unch = if s.lastv = false ∨ l ≠ s.last then 0 else s.unch + 1 := by
  unfold State.idleDetect; split <;> simp_all
@[simp] theorem State.idleDetect_last (s : State) (l : Level) : (s.idleDetect l).last = l := by
  unfold State.idleDetect; split <;> simp_all
@[simp] theorem State.idleDetect_lastv (s : State) (l : Level) : (s.idleDetect l).lastv = true := by
  unfold State.idleDetect; split <;> simp_all
@[simp] theorem State.idleDetect_cnt (s : State) (l : Level) : (s.idleDetect l).cnt = s.cnt := by
  unfold State.idleDetect; split <;> rfl
@[simp] theorem State.idleDetect_pcount (s : State) (l : Level) :
    (s.idleDetect l).pcount = s.pcount := by
  unfold State.idleDetect; split <;> rfl
@[simp] theorem State.idleDetect_periods (s : State) (l : Level) :
    (s.idleDetect l).periods = s.periods := by
  unfold State.idleDetect; split <;> rfl
@[simp] theorem State.idleDetect_frame (s : State) (l : Level) :
    (s.idleDetect l).frame = s.frame := by
  unfold State.idleDetect; split <;> rfl
@[simp] theorem State.idleDetect_err (s : State) (l : Level) : (s.idleDetect l).err = s.err := by
  unfold State.idleDetect; split <;> rfl
@[simp] theorem State.idleDetect_rdy (s : State) (l : Level) : (s.idleDetect l).rdy = s.rdy := by
  unfold State.idleDetect; split <;> rfl
@[simp] theorem State.idleDetect_hum (s : State) (l : Level) : (s.idleDetect l).hum = s.hum := by
  unfold State.idleDetect; split <;> rfl
@[simp] theorem State.idleDetect_temp (s : State) (l : Level) : (s.idleDetect l).temp = s.temp := by
  unfold State.idleDetect; split <;> rfl
@[simp] theorem State.idleDetect_pue (s : State) (l : Level) : (s.idleDetect l).pue = s.pue := by
  unfold State.idleDetect; split <;> rfl
@[simp] theorem State.idleDetect_params (s : State) (l : Level) :
    (s.idleDetect l).params = s.params := by
  unfold State.idleDetect; split <;> rfl
@[simp] theorem State.idleDetect_pins (s : State) (l : Level) : (s.idleDetect l).pins = s.pins := by
  unfold State.idleDetect; split <;> rfl
@[simp] theorem State.idleDetect_edge (s : State) (l : Level) : (s.idleDetect l).edge = s.edge := by
  unfold State.idleDetect; split <;> rfl

/-! ### Fields after the termination test -/

@[simp] theorem State.endOnIdle_phase (s : State) :
    s.endOnIdle.phase = if s.unch.toNat = s.params.idleBound then .decode else s.phase := by
  unfold State.endOnIdle; split <;> rfl
@[simp] theorem State.endOnIdle_pstate (s : State) : s.endOnIdle.pstate = s.pstate := by
  unfold State.endOnIdle; split <;> rfl
@[simp] theorem State.endOnIdle_timer (s : State) : s.endOnIdle.timer = s.timer := by
  unfold State.endOnIdle; split <;> rfl
@[simp] theorem State.endOnIdle_unch (s : State) : s.endOnIdle.unch = s.unch := by
  unfold State.endOnIdle; split <;> rfl
@[simp] theorem State.endOnIdle_last (s : State) : s.endOnIdle.last = s.last := by
  unfold State.endOnIdle; split <;> rfl
@[simp] theorem State.endOnIdle_lastv (s : State) : s.endOnIdle.lastv = s.lastv := by
  unfold State.endOnIdle; split <;> rfl
@[simp] theorem State.endOnIdle_cnt (s : State) : s.endOnIdle.cnt = s.cnt := by
  unfold State.endOnIdle; split <;> rfl
@[simp] theorem State.endOnIdle_pcount (s : State) : s.endOnIdle.pcount = s.pcount := by
  unfold State.endOnIdle; split <;> rfl
@[simp] theorem State.endOnIdle_periods (s : State) : s.endOnIdle.periods = s.periods := by
  unfold State.endOnIdle; split <;> rfl
@[simp] theorem State.endOnIdle_frame (s : State) : s.endOnIdle.frame = s.frame := by
  unfold State.endOnIdle; split <;> rfl
@[simp] theorem State.endOnIdle_err (s : State) : s.endOnIdle.err = s.err := by
  unfold State.endOnIdle; split <;> rfl
@[simp] theorem State.endOnIdle_rdy (s : State) : s.endOnIdle.rdy = s.rdy := by
  unfold State.endOnIdle; split <;> rfl
@[simp] theorem State.endOnIdle_hum (s : State) : s.endOnIdle.hum = s.hum := by
  unfold State.endOnIdle; split <;> rfl
@[simp] theorem State.endOnIdle_temp (s : State) : s.endOnIdle.temp = s.temp := by
  unfold State.endOnIdle; split <;> rfl
@[simp] theorem State.endOnIdle_pue (s : State) : s.endOnIdle.pue = s.pue := by
  unfold State.endOnIdle; split <;> rfl
@[simp] theorem State.endOnIdle_params (s : State) : s.endOnIdle.params = s.params := by
  unfold State.endOnIdle; split <;> rfl
@[simp] theorem State.endOnIdle_pins (s : State) : s.endOnIdle.pins = s.pins := by
  unfold State.endOnIdle; split <;> rfl
@[simp] theorem State.endOnIdle_edge (s : State) : s.endOnIdle.edge = s.edge := by
  unfold State.endOnIdle; split <;> rfl

/-! ### Fields after the common effect of a sample -/

@[simp] theorem sampled_phase (l : Level) (s : State) : (sampled l s).phase = phaseAfter l s := rfl
@[simp] theorem sampled_pstate (l : Level) (s : State) : (sampled l s).pstate = s.pstate := rfl
@[simp] theorem sampled_timer (l : Level) (s : State) : (sampled l s).timer = s.timer := rfl
@[simp] theorem sampled_unch (l : Level) (s : State) : (sampled l s).unch = idleAfter l s := rfl
@[simp] theorem sampled_last (l : Level) (s : State) : (sampled l s).last = l := rfl
@[simp] theorem sampled_lastv (l : Level) (s : State) : (sampled l s).lastv = true := rfl
@[simp] theorem sampled_cnt (l : Level) (s : State) : (sampled l s).cnt = s.cnt + 1 := rfl
@[simp] theorem sampled_pcount (l : Level) (s : State) : (sampled l s).pcount = s.pcount := rfl
@[simp] theorem sampled_periods (l : Level) (s : State) : (sampled l s).periods = s.periods := rfl
@[simp] theorem sampled_frame (l : Level) (s : State) : (sampled l s).frame = s.frame := rfl
@[simp] theorem sampled_err (l : Level) (s : State) : (sampled l s).err = s.err := rfl
@[simp] theorem sampled_rdy (l : Level) (s : State) : (sampled l s).rdy = s.rdy := rfl
@[simp] theorem sampled_hum (l : Level) (s : State) : (sampled l s).hum = s.hum := rfl
@[simp] theorem sampled_temp (l : Level) (s : State) : (sampled l s).temp = s.temp := rfl
@[simp] theorem sampled_pue (l : Level) (s : State) : (sampled l s).pue = s.pue := rfl
@[simp] theorem sampled_params (l : Level) (s : State) : (sampled l s).params = s.params := rfl
@[simp] theorem sampled_pins (l : Level) (s : State) : (sampled l s).pins = s.pins := rfl
@[simp] theorem sampled_edge (l : Level) (s : State) : (sampled l s).edge = s.edge := rfl

/-! ### Fields after delivering a packed frame -/

@[simp] theorem State.deliver_phase (s : State) (f : Frame) : (s.deliver f).phase = s.phase := by
  unfold State.deliver; split <;> rfl
@[simp] theorem State.deliver_pstate (s : State) (f : Frame) : (s.deliver f).pstate = s.pstate := by
  unfold State.deliver; split <;> rfl
@[simp] theorem State.deliver_timer (s : State) (f : Frame) : (s.deliver f).timer = s.timer := by
  unfold State.deliver; split <;> rfl
@[simp] theorem State.deliver_unch (s : State) (f : Frame) : (s.deliver f).unch = s.unch := by
  unfold State.deliver; split <;> rfl
@[simp] theorem State.deliver_last (s : State) (f : Frame) : (s.deliver f).last = s.last := by
  unfold State.deliver; split <;> rfl
@[simp] theorem State.deliver_lastv (s : State) (f : Frame) : (s.deliver f).lastv = s.lastv := by
  unfold State.deliver; split <;> rfl
@[simp] theorem State.deliver_cnt (s : State) (f : Frame) : (s.deliver f).cnt = s.cnt := by
  unfold State.deliver; split <;> rfl
@[simp] theorem State.deliver_pcount (s : State) (f : Frame) : (s.deliver f).pcount = s.pcount := by
  unfold State.deliver; split <;> rfl
@[simp] theorem State.deliver_periods (s : State) (f : Frame) :
    (s.deliver f).periods = s.periods := by
  unfold State.deliver; split <;> rfl
@[simp] theorem State.deliver_frame (s : State) (f : Frame) : (s.deliver f).frame = f := by
  unfold State.deliver; split <;> rfl
@[simp] theorem State.deliver_err (s : State) (f : Frame) :
    (s.deliver f).err = if csumOk f then .noError else .crc := by
  unfold State.deliver; split <;> rfl
@[simp] theorem State.deliver_rdy (s : State) (f : Frame) : (s.deliver f).rdy = s.rdy := by
  unfold State.deliver; split <;> rfl
@[simp] theorem State.deliver_hum (s : State) (f : Frame) :
    (s.deliver f).hum = if csumOk f then byteOf f 0 else s.hum := by
  unfold State.deliver; split <;> rfl
@[simp] theorem State.deliver_temp (s : State) (f : Frame) :
    (s.deliver f).temp = if csumOk f then byteOf f 2 else s.temp := by
  unfold State.deliver; split <;> rfl
@[simp] theorem State.deliver_pue (s : State) (f : Frame) : (s.deliver f).pue = s.pue := by
  unfold State.deliver; split <;> rfl
@[simp] theorem State.deliver_params (s : State) (f : Frame) : (s.deliver f).params = s.params := by
  unfold State.deliver; split <;> rfl
@[simp] theorem State.deliver_pins (s : State) (f : Frame) : (s.deliver f).pins = s.pins := by
  unfold State.deliver; split <;> rfl
@[simp] theorem State.deliver_edge (s : State) (f : Frame) : (s.deliver f).edge = s.edge := by
  unfold State.deliver; split <;> rfl

end Sys2Proof.Machine
end

