-- ==== Sys2Proof/Laws/Memory.lean ====
section
/-! SUPPORT. The period memory: read after write, the canonical form, and what reading several entries
answers. -/

set_option Elab.async false

namespace Sys2Proof.Machine

theorem Memory.read_write_same (m : Memory) (i : Nat) (v : Period) : (m.write i v).read i = some v := by
  induction m with
  | nil => simp [Memory.write, Memory.read]
  | cons c m ih =>
    obtain ⟨j, w⟩ := c
    unfold Memory.write
    split
    · simp [Memory.read]
    · split
      · simp [Memory.read]
      · rename_i hne
        simp [Memory.read, hne, ih]

theorem Memory.read_write_other (m : Memory) (i a : Nat) (v : Period) (h : a ≠ i) :
    (m.write i v).read a = m.read a := by
  induction m with
  | nil => simp [Memory.write, Memory.read, h]
  | cons c m ih =>
    obtain ⟨j, w⟩ := c
    unfold Memory.write
    split
    · simp [Memory.read, h]
    · split
      · rename_i heq
        subst heq
        simp [Memory.read, h]
      · simp [Memory.read, ih]

/-- An entry listed after a write is the written one or was listed before. -/
theorem Memory.mem_write {m : Memory} {i : Nat} {v : Period} {c : Nat × Period} (h : c ∈ m.write i v) :
    c = (i, v) ∨ c ∈ m := by
  induction m with
  | nil => simpa [Memory.write] using h
  | cons d m ih =>
    obtain ⟨j, w⟩ := d
    unfold Memory.write at h
    split at h
    · simpa using h
    · split at h
      · rcases List.mem_cons.1 h with rfl | h
        · exact .inl rfl
        · exact .inr (List.mem_cons_of_mem _ h)
      · rcases List.mem_cons.1 h with rfl | h
        · exact .inr List.mem_cons_self
        · rcases ih h with rfl | h
          · exact .inl rfl
          · exact .inr (List.mem_cons_of_mem _ h)

theorem Memory.wf_nil : Memory.wf [] := by decide

/-- A write to an entry of P keeps the canonical form. -/
theorem Memory.write_wf {m : Memory} {i : Nat} (v : Period) (h : Memory.wf m) (hi : i < Config.nBits) :
    Memory.wf (m.write i v) := by
  refine ⟨?_, fun c hc => ?_⟩
  · have hp := h.1
    clear h
    induction m with
    | nil => simp [Memory.write]
    | cons d m ih =>
      obtain ⟨j, w⟩ := d
      rw [List.pairwise_cons] at hp
      unfold Memory.write
      split
      · rename_i hlt
        refine List.pairwise_cons.2 ⟨fun c hc => ?_, List.pairwise_cons.2 hp⟩
        rcases List.mem_cons.1 hc with rfl | hc
        · exact hlt
        · exact Nat.lt_trans hlt (hp.1 c hc)
      · split
        · rename_i heq
          subst heq
          exact List.pairwise_cons.2 ⟨hp.1, hp.2⟩
        · refine List.pairwise_cons.2 ⟨fun c hc => ?_, ih hp.2⟩
          rcases Memory.mem_write hc with rfl | hc
          · show j < i
            omega
          · exact hp.1 c hc
  · rcases Memory.mem_write hc with rfl | hc
    · exact hi
    · exact h.2 c hc

/-- Recording a period keeps the canonical form. -/
theorem State.recordPeriod_wf {s : State} (h : Memory.wf s.periods) : Memory.wf s.recordPeriod.periods := by
  rw [State.recordPeriod_periods]
  split
  · exact Memory.write_wf _ h (by assumption)
  · exact h

/-- Reading `n` entries answers their values exactly when each of them holds one. -/
theorem State.readPeriods_ok {s : State} {i n : Nat} {ps : List Period} :
    s.readPeriods i n = .ok ps ↔ ps.length = n ∧ ∀ k < n, s.period? (i + k) = ps[k]? := by
  induction n generalizing i ps with
  | zero =>
    simp only [State.readPeriods, Except.ok.injEq]
    constructor
    · rintro rfl
      simp
    · rintro ⟨h, -⟩
      exact (List.length_eq_zero_iff.1 h).symm
  | succ n ih =>
    unfold State.readPeriods
    constructor
    · intro h
      split at h
      · cases h
      · rename_i p hp
        split at h
        · cases h
        · rename_i qs hqs
          cases h
          obtain ⟨hl, hr⟩ := ih.1 hqs
          refine ⟨by simp [hl], fun k hk => ?_⟩
          cases k with
          | zero => simpa using hp
          | succ k => simpa [Nat.add_assoc, Nat.add_comm 1 k] using hr k (by omega)
    · rintro ⟨hl, hr⟩
      cases ps with
      | nil => simp at hl
      | cons p qs =>
        have h0 : s.period? i = some p := by simpa using hr 0 (by omega)
        have hq : s.readPeriods (i + 1) n = .ok qs :=
          ih.2 ⟨by simpa using hl, fun k hk => by
            simpa [Nat.add_assoc, Nat.add_comm 1 k] using hr (k + 1) (by omega)⟩
        simp [h0, hq]

/-- The index a failing read names is the first entry that holds no value. -/
theorem State.readPeriods_error {s : State} {i n j : Nat} (h : s.readPeriods i n = .error j) :
    (i ≤ j ∧ j < i + n) ∧ s.period? j = none ∧ ∀ k, i ≤ k → k < j → s.period? k ≠ none := by
  induction n generalizing i with
  | zero => cases h
  | succ n ih =>
    unfold State.readPeriods at h
    split at h
    · rename_i hp
      cases h
      exact ⟨⟨Nat.le_refl _, by omega⟩, hp, fun k h1 h2 => by omega⟩
    · rename_i p hp
      split at h
      · rename_i j' hj
        cases h
        obtain ⟨⟨h1, h2⟩, h3, h4⟩ := ih hj
        refine ⟨⟨by omega, by omega⟩, h3, fun k hk1 hk2 => ?_⟩
        rcases Nat.eq_or_lt_of_le hk1 with rfl | hlt
        · simp [hp]
        · exact h4 k hlt hk2
      · cases h

/-- Where PCOUNT = 40 and every entry of P is listed, all forty are read. -/
theorem State.readPeriods_all {s : State} {p : Nat → Period} (hc : s.pcount.toNat = Config.nBits)
    (h : ∀ i < Config.nBits, s.periods.read i = some (p i)) :
    s.readPeriods 0 Config.nBits = .ok ((List.range Config.nBits).map p) := by
  rw [State.readPeriods_ok]
  refine ⟨by simp, fun k hk => ?_⟩
  simp only [Nat.zero_add, State.period?, hc, hk, if_true, h k hk]
  simp [hk]

end Sys2Proof.Machine
end

