-- ==== Sys2Proof/Laws/Step.lean ====
section
/-! SUPPORT. Which operation an edge performs, as a function of the inputs and of the control state, and
what that makes of a step and of a run. -/

set_option Elab.async false

namespace Sys2Proof.Machine

/-- The row of R49 by its column "selected when". -/
def select (p : Pins) : Phase → PState → Instr
  | .idle, _ => if p.rst then .reset else if p.start then .idleStart else .idleHold
  | .startHigh, _ => if p.rst then .reset else if p.tick then .sthTick else .sthHold
  | .startLow, _ => if p.rst then .reset else if p.tick then .stlTick else .stlHold
  | .decode, _ => if p.rst then .reset else .decode
  | .acquire, q =>
    if p.rst then .reset
    else if p.tick then
      match q, p.din with
      | .initialPullDown, .low => .ipdL
      | .initialPullDown, .high => .ipdH
      | .initialPullUp, .low => .ipuL
      | .initialPullUp, .high => .ipuH
      | .dataFirstPullDown, .low => .dfpdL
      | .dataFirstPullDown, .high => .dfpdH
      | .dataPullUp, .low => .dpuL
      | .dataPullUp, .high => .dpuH
      | .dataPullDown, .low => .dpdL
      | .dataPullDown, .high => .dpdH
    else .acqHold

/-- A word formed from inputs and control state decodes to the row that `select` names. -/
theorem decode_wordOf (p : Pins) (ph : Phase) (q : PState) :
    decode (wordOf p ph q) = .ok (select p ph q) := by
  obtain ⟨r, s, t, d⟩ := p
  cases r <;> cases s <;> cases t <;> cases d <;> cases ph <;> cases q <;> rfl

/-- A step performs the selected operation on the state whose inputs are consumed. -/
theorem step_eq (s : State) : step s = exec (select s.nextPins s.phase s.pstate) s.clockEdge := by
  unfold step State.dispatchWord
  rw [decode_wordOf]

/-- The inputs of the next edge where they are listed. -/
theorem State.nextPins_cons {s : State} {p : Pins} {ps : List Pins} (h : s.pins = p :: ps) :
    s.nextPins = p := by
  unfold State.nextPins
  rw [h]

end Sys2Proof.Machine

namespace Sys2Proof

/-- One step of a run, taken apart at the front. -/
theorem core_run_succ (n : Nat) (s : Machine.State) :
    core.run (n + 1) s =
      match Machine.step s with
      | .next t => core.run n t
      | .fault r => .fault r
      | .refused r => .refused r := by
  have hc : core.step s = Machine.step s := rfl
  show Host.Core.run core (Nat.succ n) s = _
  simp only [Host.Core.run]
  rw [hc]
  cases Machine.step s <;> rfl

theorem core_run_zero (s : Machine.State) : core.run 0 s = .next s := rfl

/-- A run whose first step answers `t` goes on from `t`. -/
theorem core_run_next {n : Nat} {s t : Machine.State} (h : Machine.step s = .next t) :
    core.run (n + 1) s = core.run n t := by
  rw [core_run_succ, h]

/-- A run of `n + m` steps is a run of `m` steps after one of `n`. -/
theorem core_run_add (n m : Nat) (s t : Machine.State) (h : core.run n s = .next t) :
    core.run (n + m) s = core.run m t := by
  induction n generalizing s with
  | zero =>
    rw [core_run_zero] at h
    cases h
    simp
  | succ n ih =>
    rw [Nat.add_right_comm, core_run_succ]
    rw [core_run_succ] at h
    cases hs : Machine.step s with
    | next u =>
      rw [hs] at h
      exact ih u h
    | fault r =>
      rw [hs] at h
      cases h
    | refused r =>
      rw [hs] at h
      cases h

end Sys2Proof
end

