-- ==== Sys2Proof/Laws/Ops.lean ====
section
/-! SUPPORT. What the shared parts of a sample operation do, said once: the common effect of R71, the
closed form of each kind of state-specific part, and the laws of `period?`. -/

set_option Elab.async false

namespace Sys2Proof.Machine

theorem State.idleDetect_eq (s : State) (l : Level) :
    s.idleDetect l = { s with unch := idleAfter l s, last := l, lastv := true } := by
  unfold State.idleDetect idleAfter
  split
  · rfl
  · rename_i h
    cases s
    simp_all

theorem State.endOnIdle_eq (s : State) :
    s.endOnIdle =
      { s with phase := if s.unch.toNat = s.params.idleBound then .decode else s.phase } := by
  unfold State.endOnIdle
  split <;> rfl

/-- A sample operation that skips its sample. -/
theorem sampleOp_skip (l : Level) (s : State) :
    sampleOp l (fun t => t) s = sampled l s := by
  rw [sampleOp, State.idleDetect_eq, State.endOnIdle_eq]
  rfl

/-- A sample operation that moves PSTATE. -/
theorem sampleOp_move (l : Level) (q : PState) (s : State) :
    sampleOp l (fun t => t.moveTo q) s = { sampled l s with pstate := q } := by
  rw [sampleOp, State.idleDetect_eq, State.endOnIdle_eq]
  rfl

/-- A sample operation that zeroes CNT and moves PSTATE. -/
theorem sampleOp_zero (l : Level) (q : PState) (s : State) :
    sampleOp l (fun t => t.zeroCount.moveTo q) s = { sampled l s with cnt := 0, pstate := q } := by
  rw [sampleOp, State.idleDetect_eq, State.endOnIdle_eq]
  rfl

/-- A sample operation that records the incremented CNT and moves PSTATE. -/
theorem sampleOp_record (l : Level) (q : PState) (s : State) :
    sampleOp l (fun t => t.recordPeriod.moveTo q) s =
      { sampled l s with
        pstate := q
        periods :=
          if s.pcount.toNat < Config.nBits then s.periods.write s.pcount.toNat (s.cnt + 1)
          else s.periods
        pcount := if s.pcount.toNat < Config.pcountMax then s.pcount + 1 else s.pcount } := by
  rw [sampleOp, State.idleDetect_eq, State.endOnIdle_eq]
  rfl

/-- Every sample operation, by what it answers: the common effect of R71 with the state-specific part. -/
theorem exec_sample (s : State) :
    exec .ipdL s = .next (sampleOp .low (fun t => t.moveTo .initialPullUp) s) ∧
    exec .ipdH s = .next (sampleOp .high (fun t => t) s) ∧
    exec .ipuL s = .next (sampleOp .low (fun t => t) s) ∧
    exec .ipuH s = .next (sampleOp .high (fun t => t.moveTo .dataFirstPullDown) s) ∧
    exec .dfpdL s = .next (sampleOp .low (fun t => t.moveTo .dataPullUp) s) ∧
    exec .dfpdH s = .next (sampleOp .high (fun t => t) s) ∧
    exec .dpuL s = .next (sampleOp .low (fun t => t) s) ∧
    exec .dpuH s = .next (sampleOp .high (fun t => t.zeroCount.moveTo .dataPullDown) s) ∧
    exec .dpdL s = .next (sampleOp .low (fun t => t.recordPeriod.moveTo .dataPullUp) s) ∧
    exec .dpdH s = .next (sampleOp .high (fun t => t) s) :=
  ⟨rfl, rfl, rfl, rfl, rfl, rfl, rfl, rfl, rfl, rfl⟩

/-- An entry below PCOUNT is read from P. -/
theorem State.period?_of_lt {s : State} {i : Nat} (h : i < s.pcount.toNat) :
    s.period? i = s.periods.read i := if_pos h

/-- An entry at or above PCOUNT holds no value of this cycle. -/
theorem State.period?_of_ge {s : State} {i : Nat} (h : s.pcount.toNat ≤ i) : s.period? i = none :=
  if_neg (Nat.not_lt.2 h)

/-- What DECODE answers: MISSING_DATA, a fault of a state no run reaches, or the delivered frame. -/
theorem execDecode_cases (s : State) :
    (s.pcount.toNat ≠ Config.nBits ∧ execDecode s = .next (s.raise .missingData).complete) ∨
    (s.pcount.toNat = Config.nBits ∧
      ∃ i, s.readPeriods 0 Config.nBits = .error i ∧ execDecode s = .fault (.unwrittenPeriod i)) ∨
    (s.pcount.toNat = Config.nBits ∧
      ∃ ps, s.readPeriods 0 Config.nBits = .ok ps ∧
        execDecode s = .next (s.deliver (packBits (sliceAll ps))).complete) := by
  unfold execDecode lenchk
  by_cases h : s.pcount.toNat = Config.nBits
  · rw [if_pos (by simpa using h)]
    cases hr : s.readPeriods 0 Config.nBits with
    | error i => exact .inr (.inl ⟨h, i, rfl, rfl⟩)
    | ok ps => exact .inr (.inr ⟨h, ps, rfl, rfl⟩)
  · rw [if_neg (by simpa using h)]
    exact .inl ⟨h, rfl⟩

end Sys2Proof.Machine
end

