-- ==== Sys2Proof/Laws/Decoder.lean ====
section
/-! SUPPORT. The sub-operations of DECODE, one lemma each on what they compute: least and greatest
period, the comparator on integers, and the bits of a packed frame. -/

set_option Elab.async false

namespace Sys2Proof.Machine

theorem shortest_le {ps : List Period} {p : Period} (h : p ∈ ps) : shortest ps ≤ p := by
  induction ps with
  | nil => cases h
  | cons q ps ih =>
    unfold shortest
    rcases List.mem_cons.1 h with rfl | h
    · split
      · exact BitVec.le_refl _
      · rename_i hn
        exact BitVec.le_of_lt (BitVec.not_le.1 hn)
    · split
      · rename_i hle
        exact BitVec.le_trans hle (ih h)
      · exact ih h

theorem shortest_mem {ps : List Period} (h : ps ≠ []) : shortest ps ∈ ps := by
  induction ps with
  | nil => exact absurd rfl h
  | cons q ps ih =>
    unfold shortest
    split
    · exact List.mem_cons_self
    · rename_i hn
      rcases ps with - | ⟨r, rs⟩
      · refine absurd (BitVec.le_def.2 ?_) hn
        have := q.isLt
        show q.toNat ≤ 2 ^ 16 - 1
        omega
      · exact List.mem_cons_of_mem _ (ih (by simp))

theorem le_longest {ps : List Period} {p : Period} (h : p ∈ ps) : p ≤ longest ps := by
  induction ps with
  | nil => cases h
  | cons q ps ih =>
    unfold longest
    rcases List.mem_cons.1 h with rfl | h
    · split
      · exact BitVec.le_refl _
      · rename_i hn
        exact BitVec.le_of_lt (BitVec.not_le.1 hn)
    · split
      · rename_i hle
        exact BitVec.le_trans (ih h) hle
      · exact ih h

theorem longest_mem {ps : List Period} (h : ps ≠ []) : longest ps ∈ ps := by
  induction ps with
  | nil => exact absurd rfl h
  | cons q ps ih =>
    unfold longest
    split
    · exact List.mem_cons_self
    · rename_i hn
      rcases ps with - | ⟨r, rs⟩
      · exact absurd (BitVec.le_def.2 (Nat.zero_le _)) hn
      · exact List.mem_cons_of_mem _ (ih (by simp))

/-- The comparator on integers: nothing wraps on CW + 1 bits (R93, R94, R98). -/
theorem slice_thresh (lo hi p : Period) :
    slice (thresh lo hi) p = decide (lo.toNat + hi.toNat < 2 * p.toNat) := by
  have h1 := lo.isLt
  have h2 := hi.isLt
  have h3 := p.isLt
  unfold slice thresh
  rw [decide_eq_decide]
  bv_omega

/-- Bit `i` of a packed frame is the `i`-th decided bit (R95). -/
theorem bitOf_packBits {bs : List Bool} (h : bs.length = 40) (i : Nat) :
    bitOf (packBits bs) i = bs.getD i false := by
  unfold bitOf packBits
  have hc : (BitVec.ofBoolListBE bs).setWidth 40 = (BitVec.ofBoolListBE bs).cast h := by
    apply BitVec.eq_of_toNat_eq
    have := (BitVec.ofBoolListBE bs).isLt
    rw [BitVec.toNat_setWidth, BitVec.toNat_cast, Nat.mod_eq_of_lt]
    exact Nat.lt_of_lt_of_eq this (by rw [h])
  rw [hc, BitVec.getMsbD_cast, BitVec.getMsbD_ofBoolListBE]

end Sys2Proof.Machine
end

