-- ==== Sys2Proof/Laws/Exec.lean ====
section
/-! SUPPORT. What a step can do, said once: `step_cases` lists every way a step answers a next state.
Invariants and whole-machine rules are derived from it, not from unfolding `step` and `exec`. -/

set_option Elab.async false

namespace Sys2Proof.Machine

/-- The state-specific part that pulse state `q` applies to sample `l` (R76 to R85). -/
def pulseAct : PState → Level → State → State
  | .initialPullDown, .low => fun t => t.moveTo .initialPullUp
  | .initialPullDown, .high => fun t => t
  | .initialPullUp, .low => fun t => t
  | .initialPullUp, .high => fun t => t.moveTo .dataFirstPullDown
  | .dataFirstPullDown, .low => fun t => t.moveTo .dataPullUp
  | .dataFirstPullDown, .high => fun t => t
  | .dataPullUp, .low => fun t => t
  | .dataPullUp, .high => fun t => t.zeroCount.moveTo .dataPullDown
  | .dataPullDown, .low => fun t => t.recordPeriod.moveTo .dataPullUp
  | .dataPullDown, .high => fun t => t

/-- STH.TICK's next state (R65). -/
def sthTicked (s : State) : State :=
  if s.timer.toNat + 1 = s.params.startHighTicks then { s with phase := .startLow, timer := 0 }
  else { s with timer := s.timer + 1 }

/-- STL.TICK's next state (R67). -/
def stlTicked (s : State) : State :=
  if s.timer.toNat + 1 = s.params.startLowTicks then
    { s with phase := .acquire, timer := 0, pue := true }
  else { s with timer := s.timer + 1 }

/-- The registers that every sample operation leaves in the same way, whatever its pulse state. -/
theorem sampleOp_pulse (q : PState) (l : Level) (s : State) :
    let t := sampleOp l (pulseAct q l) s
    (t.phase = phaseAfter l s ∧ t.unch = idleAfter l s ∧ t.last = l ∧ t.lastv = true) ∧
    (t.timer = s.timer ∧ t.pue = s.pue ∧ t.params = s.params ∧ t.pins = s.pins ∧ t.edge = s.edge) ∧
    (t.frame = s.frame ∧ t.err = s.err ∧ t.rdy = s.rdy ∧ t.hum = s.hum ∧ t.temp = s.temp) := by
  cases q <;> cases l <;>
    simp only [pulseAct, sampleOp_skip, sampleOp_move, sampleOp_zero, sampleOp_record] <;> simp

/-- An edge with `rst` = 1 performs RESET. -/
theorem step_reset {s : State} (hr : s.nextPins.rst = true) : step s = .next (s.clockEdge.clear .idle) := by
  rw [step_eq]
  cases s.phase <;> simp only [select, hr, if_true] <;> rfl

/-- An edge of IDLE. -/
theorem step_idle {s : State} (hp : s.phase = .idle) (hr : s.nextPins.rst = false) :
    step s = .next (if s.nextPins.start then s.clockEdge.clear .startHigh else s.clockEdge) := by
  rw [step_eq, hp]
  cases h : s.nextPins.start <;> simp only [select, hr, h] <;> rfl

/-- An edge of START_HIGH. -/
theorem step_startHigh {s : State} (hp : s.phase = .startHigh) (hr : s.nextPins.rst = false) :
    step s = .next (if s.nextPins.tick then sthTicked s.clockEdge else s.clockEdge) := by
  rw [step_eq, hp]
  cases h : s.nextPins.tick <;> simp only [select, hr, h] <;> rfl

/-- An edge of START_LOW. -/
theorem step_startLow {s : State} (hp : s.phase = .startLow) (hr : s.nextPins.rst = false) :
    step s = .next (if s.nextPins.tick then stlTicked s.clockEdge else s.clockEdge) := by
  rw [step_eq, hp]
  cases h : s.nextPins.tick <;> simp only [select, hr, h] <;> rfl

/-- An edge of ACQUIRE: one sample at a tick, nothing without. -/
theorem step_acquire {s : State} (hp : s.phase = .acquire) (hr : s.nextPins.rst = false) :
    step s =
      .next
        (if s.nextPins.tick then
          sampleOp s.nextPins.din (pulseAct s.pstate s.nextPins.din) s.clockEdge
        else s.clockEdge) := by
  rw [step_eq, hp]
  cases h : s.nextPins.tick
  · simp only [select, hr, h]
    rfl
  · cases s.pstate <;> cases hd : s.nextPins.din <;> simp only [select, hr, h, hd] <;> rfl

/-- An edge of DECODE. -/
theorem step_decode {s : State} (hp : s.phase = .decode) (hr : s.nextPins.rst = false) :
    step s = execDecode s.clockEdge := by
  rw [step_eq, hp]
  simp only [select, hr]
  rfl

/-- Every way a step answers a next state. -/
theorem step_cases {s t : State} (h : step s = .next t) :
    (s.nextPins.rst = true ∧ t = s.clockEdge.clear .idle) ∨
    (s.nextPins.rst = false ∧
      ((s.phase = .idle ∧
          t = if s.nextPins.start then s.clockEdge.clear .startHigh else s.clockEdge) ∨
        (s.phase = .startHigh ∧ t = if s.nextPins.tick then sthTicked s.clockEdge else s.clockEdge) ∨
        (s.phase = .startLow ∧ t = if s.nextPins.tick then stlTicked s.clockEdge else s.clockEdge) ∨
        (s.phase = .acquire ∧
          t = if s.nextPins.tick then
              sampleOp s.nextPins.din (pulseAct s.pstate s.nextPins.din) s.clockEdge
            else s.clockEdge) ∨
        (s.phase = .decode ∧ execDecode s.clockEdge = .next t))) := by
  cases hr : s.nextPins.rst with
  | true =>
    rw [step_reset hr] at h
    cases h
    exact .inl ⟨rfl, rfl⟩
  | false =>
    refine .inr ⟨rfl, ?_⟩
    cases hp : s.phase with
    | idle =>
      rw [step_idle hp hr] at h
      cases h
      exact .inl ⟨rfl, rfl⟩
    | startHigh =>
      rw [step_startHigh hp hr] at h
      cases h
      exact .inr (.inl ⟨rfl, rfl⟩)
    | startLow =>
      rw [step_startLow hp hr] at h
      cases h
      exact .inr (.inr (.inl ⟨rfl, rfl⟩))
    | acquire =>
      rw [step_acquire hp hr] at h
      cases h
      exact .inr (.inr (.inr (.inl ⟨rfl, rfl⟩)))
    | decode =>
      rw [step_decode hp hr] at h
      exact .inr (.inr (.inr (.inr ⟨rfl, h⟩)))

end Sys2Proof.Machine
end

