-- ==== Sys2Proof/Laws/PerInstr.lean ====
section
/-! SUPPORT. The family RowOfWord, one lemma per operation: the word the encoder writes from the pattern
column of R49 is selected by the operation's row in the match and mask columns, whatever the ignored
bits are. Before it, that no two rows of the table select one word (R50). -/

set_option Elab.async false

namespace Sys2Proof

/-- Two rows that select one word agree where both masks look. -/
theorem OpRow.agree {r r' : OpRow} {w : DispatchWord} (h : r.selects w = true) (h' : r'.selects w = true) :
    r.mtch &&& r'.mask = r'.mtch &&& r.mask := by
  unfold OpRow.selects at h h'
  rw [← eq_of_beq h, ← eq_of_beq h', BitVec.and_assoc, BitVec.and_assoc, BitVec.and_comm r.mask]

/-- Any two rows of R49 differ in a bit both of them look at. -/
theorem opTable_rows_differ :
    ∀ r ∈ opTable, ∀ r' ∈ opTable, r ≠ r' → r.mtch &&& r'.mask ≠ r'.mtch &&& r.mask := by
  decide +kernel

/-- The operation of a word that the row `r` selects is the row's (R50). -/
theorem decode_of_selects {r : OpRow} {w : DispatchWord} (hr : r ∈ opTable) (h : r.selects w = true) :
    decode w = .ok r.op := by
  unfold decode
  cases hf : opTable.find? (fun r => r.selects w) with
  | none => exact absurd h (List.find?_eq_none.1 hf r hr)
  | some q =>
    have hq := List.find?_some hf
    have hmem := List.mem_of_find?_eq_some hf
    by_cases heq : q = r
    · rw [heq]
    · exact absurd (OpRow.agree hq h) (opTable_rows_differ q hmem r hr heq)

end Sys2Proof

namespace Sys2Proof.Laws.RowOfWord

/-- The row of `i` selects every word the encoder writes for `i`. -/
def Statement (i : Instr) : Prop :=
  ∀ g : IgnoredBits, ∃ r ∈ opTable, r.op = i ∧ r.selects (encode i g) = true

theorem reset : Statement .reset :=
  have h : ∀ s : Bool, ∀ t : Bool, ∀ d : Bool, ∀ p : BitVec 3, ∀ q : BitVec 3,
      OpRow.selects ⟨.reset, 0x200, 0x200⟩ (encode .reset ⟨s, t, d, p, q⟩) = true := by decide +kernel
  fun ⟨s, t, d, p, q⟩ => ⟨⟨.reset, 0x200, 0x200⟩, by decide, rfl, h s t d p q⟩

theorem idleHold : Statement .idleHold :=
  have h : ∀ t : Bool, ∀ d : Bool, ∀ q : BitVec 3,
      OpRow.selects ⟨.idleHold, 0x000, 0x338⟩ (encode .idleHold ⟨false, t, d, 0, q⟩) = true := by decide +kernel
  fun ⟨_, t, d, _, q⟩ => ⟨⟨.idleHold, 0x000, 0x338⟩, by decide, rfl, h t d q⟩

theorem idleStart : Statement .idleStart :=
  have h : ∀ t : Bool, ∀ d : Bool, ∀ q : BitVec 3,
      OpRow.selects ⟨.idleStart, 0x100, 0x338⟩ (encode .idleStart ⟨false, t, d, 0, q⟩) = true := by decide +kernel
  fun ⟨_, t, d, _, q⟩ => ⟨⟨.idleStart, 0x100, 0x338⟩, by decide, rfl, h t d q⟩

theorem sthHold : Statement .sthHold :=
  have h : ∀ s : Bool, ∀ d : Bool, ∀ q : BitVec 3,
      OpRow.selects ⟨.sthHold, 0x008, 0x2B8⟩ (encode .sthHold ⟨s, false, d, 0, q⟩) = true := by decide +kernel
  fun ⟨s, _, d, _, q⟩ => ⟨⟨.sthHold, 0x008, 0x2B8⟩, by decide, rfl, h s d q⟩

theorem sthTick : Statement .sthTick :=
  have h : ∀ s : Bool, ∀ d : Bool, ∀ q : BitVec 3,
      OpRow.selects ⟨.sthTick, 0x088, 0x2B8⟩ (encode .sthTick ⟨s, false, d, 0, q⟩) = true := by decide +kernel
  fun ⟨s, _, d, _, q⟩ => ⟨⟨.sthTick, 0x088, 0x2B8⟩, by decide, rfl, h s d q⟩

theorem stlHold : Statement .stlHold :=
  have h : ∀ s : Bool, ∀ d : Bool, ∀ q : BitVec 3,
      OpRow.selects ⟨.stlHold, 0x010, 0x2B8⟩ (encode .stlHold ⟨s, false, d, 0, q⟩) = true := by decide +kernel
  fun ⟨s, _, d, _, q⟩ => ⟨⟨.stlHold, 0x010, 0x2B8⟩, by decide, rfl, h s d q⟩

theorem stlTick : Statement .stlTick :=
  have h : ∀ s : Bool, ∀ d : Bool, ∀ q : BitVec 3,
      OpRow.selects ⟨.stlTick, 0x090, 0x2B8⟩ (encode .stlTick ⟨s, false, d, 0, q⟩) = true := by decide +kernel
  fun ⟨s, _, d, _, q⟩ => ⟨⟨.stlTick, 0x090, 0x2B8⟩, by decide, rfl, h s d q⟩

theorem acqHold : Statement .acqHold :=
  have h : ∀ s : Bool, ∀ d : Bool, ∀ q : BitVec 3,
      OpRow.selects ⟨.acqHold, 0x018, 0x2B8⟩ (encode .acqHold ⟨s, false, d, 0, q⟩) = true := by decide +kernel
  fun ⟨s, _, d, _, q⟩ => ⟨⟨.acqHold, 0x018, 0x2B8⟩, by decide, rfl, h s d q⟩

theorem ipdL : Statement .ipdL :=
  have h : ∀ s : Bool,
      OpRow.selects ⟨.ipdL, 0x099, 0x2FF⟩ (encode .ipdL ⟨s, false, false, 0, 0⟩) = true := by decide +kernel
  fun ⟨s, _, _, _, _⟩ => ⟨⟨.ipdL, 0x099, 0x2FF⟩, by decide, rfl, h s⟩

theorem ipdH : Statement .ipdH :=
  have h : ∀ s : Bool,
      OpRow.selects ⟨.ipdH, 0x0D9, 0x2FF⟩ (encode .ipdH ⟨s, false, false, 0, 0⟩) = true := by decide +kernel
  fun ⟨s, _, _, _, _⟩ => ⟨⟨.ipdH, 0x0D9, 0x2FF⟩, by decide, rfl, h s⟩

theorem ipuL : Statement .ipuL :=
  have h : ∀ s : Bool,
      OpRow.selects ⟨.ipuL, 0x09A, 0x2FF⟩ (encode .ipuL ⟨s, false, false, 0, 0⟩) = true := by decide +kernel
  fun ⟨s, _, _, _, _⟩ => ⟨⟨.ipuL, 0x09A, 0x2FF⟩, by decide, rfl, h s⟩

theorem ipuH : Statement .ipuH :=
  have h : ∀ s : Bool,
      OpRow.selects ⟨.ipuH, 0x0DA, 0x2FF⟩ (encode .ipuH ⟨s, false, false, 0, 0⟩) = true := by decide +kernel
  fun ⟨s, _, _, _, _⟩ => ⟨⟨.ipuH, 0x0DA, 0x2FF⟩, by decide, rfl, h s⟩

theorem dfpdL : Statement .dfpdL :=
  have h : ∀ s : Bool,
      OpRow.selects ⟨.dfpdL, 0x09B, 0x2FF⟩ (encode .dfpdL ⟨s, false, false, 0, 0⟩) = true := by decide +kernel
  fun ⟨s, _, _, _, _⟩ => ⟨⟨.dfpdL, 0x09B, 0x2FF⟩, by decide, rfl, h s⟩

theorem dfpdH : Statement .dfpdH :=
  have h : ∀ s : Bool,
      OpRow.selects ⟨.dfpdH, 0x0DB, 0x2FF⟩ (encode .dfpdH ⟨s, false, false, 0, 0⟩) = true := by decide +kernel
  fun ⟨s, _, _, _, _⟩ => ⟨⟨.dfpdH, 0x0DB, 0x2FF⟩, by decide, rfl, h s⟩

theorem dpuL : Statement .dpuL :=
  have h : ∀ s : Bool,
      OpRow.selects ⟨.dpuL, 0x09C, 0x2FF⟩ (encode .dpuL ⟨s, false, false, 0, 0⟩) = true := by decide +kernel
  fun ⟨s, _, _, _, _⟩ => ⟨⟨.dpuL, 0x09C, 0x2FF⟩, by decide, rfl, h s⟩

theorem dpuH : Statement .dpuH :=
  have h : ∀ s : Bool,
      OpRow.selects ⟨.dpuH, 0x0DC, 0x2FF⟩ (encode .dpuH ⟨s, false, false, 0, 0⟩) = true := by decide +kernel
  fun ⟨s, _, _, _, _⟩ => ⟨⟨.dpuH, 0x0DC, 0x2FF⟩, by decide, rfl, h s⟩

theorem dpdL : Statement .dpdL :=
  have h : ∀ s : Bool,
      OpRow.selects ⟨.dpdL, 0x09D, 0x2FF⟩ (encode .dpdL ⟨s, false, false, 0, 0⟩) = true := by decide +kernel
  fun ⟨s, _, _, _, _⟩ => ⟨⟨.dpdL, 0x09D, 0x2FF⟩, by decide, rfl, h s⟩

theorem dpdH : Statement .dpdH :=
  have h : ∀ s : Bool,
      OpRow.selects ⟨.dpdH, 0x0DD, 0x2FF⟩ (encode .dpdH ⟨s, false, false, 0, 0⟩) = true := by decide +kernel
  fun ⟨s, _, _, _, _⟩ => ⟨⟨.dpdH, 0x0DD, 0x2FF⟩, by decide, rfl, h s⟩

theorem decode : Statement .decode :=
  have h : ∀ s : Bool, ∀ t : Bool, ∀ d : Bool, ∀ q : BitVec 3,
      OpRow.selects ⟨.decode, 0x020, 0x238⟩ (encode .decode ⟨s, t, d, 0, q⟩) = true := by decide +kernel
  fun ⟨s, t, d, _, q⟩ => ⟨⟨.decode, 0x020, 0x238⟩, by decide, rfl, h s t d q⟩

end Sys2Proof.Laws.RowOfWord
end

