-- ==== Sys2Proof/Tests/Slice0.lean ====
section
/-! SUPPORT. Tests of the model. Every expected value is a vector (V), a program (P) or a worked example of
spec/95_test_vectors.md, or is written out from the rule the test names. After them, for every statement
of Certificates/Slice0/Obligations.lean that has hypotheses, a concrete state and operands that meet all
of them together (`witness_…`). -/

set_option Elab.async false

namespace Sys2Proof.Tests

open Sys2Proof Sys2Proof.Machine Sys2Proof.Claims

/-! ### Well-formedness refuses each ill-formed term -/

theorem test_wf_nominal : Params.nominal.wf ∧ (Params.ofTickRate 1000000 100).wf := by decide

/-- R6, clause by clause: IDLE_BOUND 0 and 128, CNT's width for IDLE_BOUND alone is never the tighter
bound at UW = 7, a start phase of 0 ticks and one of 2^16 + 1. -/
theorem test_wf_params :
    ¬Params.wf ⟨0, 2, 1⟩ ∧ ¬Params.wf ⟨128, 2, 1⟩ ∧ ¬Params.wf ⟨16384, 2, 1⟩ ∧ ¬Params.wf ⟨3, 0, 1⟩ ∧
      ¬Params.wf ⟨3, 65537, 1⟩ ∧ ¬Params.wf ⟨3, 2, 0⟩ ∧ ¬Params.wf ⟨3, 2, 65537⟩ ∧
      Params.wf ⟨127, 65536, 65536⟩ := by decide

/-- R45, R46: the reserved codes. -/
theorem test_wf_codes :
    ¬legalPhaseCode 5 ∧ ¬legalPhaseCode 6 ∧ ¬legalPhaseCode 7 ∧ legalPhaseCode 4 ∧
      ¬legalPStateCode 0 ∧ ¬legalPStateCode 6 ∧ ¬legalPStateCode 7 ∧ legalPStateCode 5 := by decide

/-- A word whose ignored register field holds a reserved code is not one the block forms; a row that
fixes both fields has no such word. -/
theorem test_wf_words :
    ¬Instr.wf .reset ⟨false, false, false, 5, 1⟩ ∧ ¬Instr.wf .reset ⟨false, false, false, 0, 0⟩ ∧
      ¬Instr.wf .idleHold ⟨false, false, false, 0, 6⟩ ∧ ¬Instr.wf .idleStart ⟨false, false, false, 0, 0⟩ ∧
      ¬Instr.wf .sthHold ⟨false, false, false, 0, 7⟩ ∧ ¬Instr.wf .sthTick ⟨false, false, false, 0, 0⟩ ∧
      ¬Instr.wf .stlHold ⟨false, false, false, 0, 0⟩ ∧ ¬Instr.wf .stlTick ⟨false, false, false, 0, 6⟩ ∧
      ¬Instr.wf .acqHold ⟨false, false, false, 0, 0⟩ ∧ ¬Instr.wf .decode ⟨false, false, false, 0, 7⟩ ∧
      Instr.wf .dpdL ⟨true, false, false, 7, 7⟩ ∧ Instr.wf .decode ⟨true, true, true, 7, 1⟩ := by decide

/-- R53, R54: a run of no samples, and a pseudo-instruction with a run length of 0 other than the leading
HIGH of PRE. -/
theorem test_wf_programs :
    ¬Run.wf ⟨.high, 0⟩ ∧ ¬Pseudo.wf (.run ⟨.low, 0⟩) ∧ ¬Pseudo.wf (.pre 2 0 8) ∧
      ¬Pseudo.wf (.pre 2 8 0) ∧ Pseudo.wf (.pre 0 8 8) ∧ ¬Pseudo.wf (.bit0 0 3) ∧
      ¬Pseudo.wf (.bit1 5 0) ∧ ¬Pseudo.wf (.byte 60 5 0 8) ∧
      ¬Pseudo.wf (.frame5 60 0 25 0 85 5 3 0) ∧ ¬Pseudo.wf (.endLow 0) ∧ Pseudo.wf .idleH := by decide

/-! ### Decoding, each word written out from R47 and R49 as rst start tick din PHASE PSTATE -/

theorem test_decode_sequencer :
    decode 0b1_0_1_1_011_101 = .ok .reset ∧ decode 0b1_0_0_0_111_000 = .ok .reset ∧
      decode 0b0_0_1_0_000_101 = .ok .idleHold ∧ decode 0b0_1_0_0_000_101 = .ok .idleStart ∧
      decode 0b0_1_0_0_001_001 = .ok .sthHold ∧ decode 0b0_0_1_0_001_001 = .ok .sthTick ∧
      decode 0b0_1_0_1_010_001 = .ok .stlHold ∧ decode 0b0_0_1_0_010_001 = .ok .stlTick ∧
      decode 0b0_0_0_1_011_101 = .ok .acqHold := by decide +kernel

theorem test_decode_samples :
    decode 0b0_0_1_0_011_001 = .ok .ipdL ∧ decode 0b0_0_1_1_011_001 = .ok .ipdH ∧
      decode 0b0_0_1_0_011_010 = .ok .ipuL ∧ decode 0b0_1_1_1_011_010 = .ok .ipuH ∧
      decode 0b0_0_1_0_011_011 = .ok .dfpdL ∧ decode 0b0_0_1_1_011_011 = .ok .dfpdH ∧
      decode 0b0_1_1_0_011_100 = .ok .dpuL ∧ decode 0b0_0_1_1_011_100 = .ok .dpuH ∧
      decode 0b0_0_1_0_011_101 = .ok .dpdL ∧ decode 0b0_1_1_1_011_101 = .ok .dpdH := by decide +kernel

theorem test_decode_decoder :
    decode 0b0_1_1_1_100_001 = .ok .decode ∧ decode 0b0_0_0_0_100_101 = .ok .decode := by decide +kernel

/-- R51: the reserved words are rejected by name. -/
theorem test_decode_reserved :
    decode 0b0_0_0_0_101_001 = .error .reservedPhase ∧ decode 0b0_1_1_1_111_101 = .error .reservedPhase ∧
      decode 0b0_0_1_0_011_000 = .error .reservedPState ∧
      decode 0b0_0_1_1_011_110 = .error .reservedPState ∧
      decode 0b0_0_0_0_011_111 = .ok .acqHold := by decide +kernel

/-- R47, R52: one length, 10 bits. -/
theorem test_decode_length :
    decodeBits 16 0x400 = .error .tooLong ∧ decodeTableWord 16 0x2DD = some .reset ∧
      decodeTableWord 10 0x09D = some .dpdL ∧ decodeTableWord 16 0x028 = none := by decide +kernel

/-- The match column of R49 is the word the pattern gives with every ignored bit 0. -/
theorem test_encode_matches :
    let z : IgnoredBits := ⟨false, false, false, 0, 0⟩
    encode .reset z = 0x200 ∧ encode .idleStart z = 0x100 ∧ encode .sthTick z = 0x088 ∧
      encode .stlHold z = 0x010 ∧ encode .acqHold z = 0x018 ∧ encode .ipuH z = 0x0DA ∧
      encode .dfpdL z = 0x09B ∧ encode .dpuH z = 0x0DC ∧ encode .decode z = 0x020 := by decide

/-! ### One edge of each operation -/

/-- The four inputs of an edge, in the order of the vectors: `rst`, `start`, `tick`, `din`. -/
def ins (r s t d : Bool) : Pins := ⟨r, s, t, Level.ofBit d⟩

/-- After one edge with inputs `p` whose dispatch word is `w`, the block satisfies `f`. -/
def edge (s : State) (p : Pins) (w : DispatchWord) (f : State → Bool) : Bool :=
  (s.withPins [p]).dispatchWord == w &&
    match step (s.withPins [p]) with
    | .next t => f t
    | .fault _ => false
    | .refused _ => false

/-- The registers of a state in which samples are being taken. -/
def acq (q : PState) (last : Level) (cnt pcount : Nat) : State :=
  { State.reset with
    phase := .acquire, pue := true, lastv := true, pstate := q, last := last
    cnt := .ofNat 16 cnt, pcount := .ofNat 6 pcount }

/-- PSTATE, CNT and PCOUNT after a sample that does not end acquisition (the columns of V14 to V27). -/
def pulse (q : PState) (cnt pcount : Nat) (t : State) : Bool :=
  t.phase == .acquire && t.pstate == q && t.cnt.toNat == cnt && t.pcount.toNat == pcount

/-- V1 -/
theorem test_reset :
    edge { acq .dataPullDown .high 3 17 with unch := 4 } (ins true false true true) 0x2DD (fun t =>
      t.phase == .idle && t.pstate == .initialPullDown && t.pcount == 0 && t.cnt == 0 && t.unch == 0 &&
        !t.lastv && !t.pue && !t.rdy && t.err == .noError && t.hum == 0xFF && t.temp == 0xFF &&
        t.frame == 0) = true := by decide +kernel

/-- V2: nothing changes. -/
theorem test_idle_hold :
    let s := { State.reset with pstate := .dataPullDown, rdy := true, hum := 60 }
    edge s (ins false false true false) 0x085 (fun t => t == (s.withPins [] |>.clockEdge)) = true := by
  decide +kernel

/-- V3 -/
theorem test_idle_start :
    edge
      { State.reset with
        pstate := .dataPullDown, pcount := 40, rdy := true, err := .crc, frame := 0x3C00190056, pue := true }
      (ins false true false false) 0x105 (fun t =>
        t.phase == .startHigh && t.pstate == .initialPullDown && t.pcount == 0 && t.timer == 0 &&
          !t.rdy && t.err == .noError && t.frame == 0 && t.hum == 0xFF && t.temp == 0xFF && !t.pue &&
          t.lineOe && t.lineOut) = true := by decide +kernel

/-- V4: `start` is ignored. -/
theorem test_sth_hold :
    let s := { State.reset with phase := .startHigh, timer := 7 }
    edge s (ins false true false false) 0x109 (fun t => t == (s.withPins [] |>.clockEdge)) = true := by
  decide +kernel

/-- V5 -/
theorem test_sth_tick_counts :
    edge { State.reset with phase := .startHigh, timer := 7 } (ins false false true false) 0x089
      (fun t => t.phase == .startHigh && t.timer == 8) = true := by decide +kernel

/-- V6 -/
theorem test_sth_tick_ends :
    edge { State.reset with phase := .startHigh, timer := 49999 } (ins false false true true) 0x0C9
      (fun t => t.phase == .startLow && t.timer == 0 && !t.lineOut && t.lineOe) = true := by
  decide +kernel

/-- The example of R66. -/
theorem test_stl_hold :
    edge { State.reset with phase := .startLow, timer := 7 } (ins false false false true) 0x051
      (fun t => t.phase == .startLow && t.timer == 7) = true := by decide +kernel

/-- V7 -/
theorem test_stl_tick_ends :
    edge { State.reset with phase := .startLow, timer := 19999 } (ins false false true false) 0x091
      (fun t => t.phase == .acquire && t.timer == 0 && t.pue && !t.lineOe) = true := by decide +kernel

/-- V8: `din` is not sampled. -/
theorem test_acq_hold :
    let s := acq .dataPullDown .low 3 0
    edge s (ins false false false true) 0x05D (fun t => t == (s.withPins [] |>.clockEdge)) = true := by
  decide +kernel

/-- V9: the first sample is a change although it equals LAST. -/
theorem test_ipdL_first :
    edge { acq .initialPullDown .low 0 0 with lastv := false } (ins false false true false) 0x099
      (fun t => pulse .initialPullUp 1 0 t && t.lastv && t.last == .low && t.unch == 0) = true := by
  decide +kernel

/-- V14 -/
theorem test_ipdL :
    edge (acq .initialPullDown .high 2 0) (ins false false true false) 0x099 (pulse .initialPullUp 3 0) =
      true := by decide +kernel

/-- V15 -/
theorem test_ipdH :
    edge (acq .initialPullDown .high 0 0) (ins false false true true) 0x0D9 (pulse .initialPullDown 1 0) =
      true := by decide +kernel

/-- V16 -/
theorem test_ipuL :
    edge (acq .initialPullUp .low 3 0) (ins false false true false) 0x09A (pulse .initialPullUp 4 0) =
      true := by decide +kernel

/-- V17 -/
theorem test_ipuH :
    edge (acq .initialPullUp .low 10 0) (ins false false true true) 0x0DA
      (pulse .dataFirstPullDown 11 0) = true := by decide +kernel

/-- V18: the response HIGH is not a bit. -/
theorem test_dfpdL :
    edge (acq .dataFirstPullDown .high 18 0) (ins false false true false) 0x09B
      (fun t => pulse .dataPullUp 19 0 t && t.periods == []) = true := by decide +kernel

/-- V19 -/
theorem test_dfpdH :
    edge (acq .dataFirstPullDown .high 11 0) (ins false false true true) 0x0DB
      (pulse .dataFirstPullDown 12 0) = true := by decide +kernel

/-- V20 -/
theorem test_dpuL :
    edge (acq .dataPullUp .low 19 0) (ins false false true false) 0x09C (pulse .dataPullUp 20 0) =
      true := by decide +kernel

/-- V21: CNT is 0, not 1. -/
theorem test_dpuH :
    edge (acq .dataPullUp .low 23 0) (ins false false true true) 0x0DC (pulse .dataPullDown 0 0) =
      true := by decide +kernel

/-- V22 and V24, and V12: a period of 100 is the largest recordable. -/
theorem test_dpdL_records :
    edge (acq .dataPullDown .high 2 0) (ins false false true false) 0x09D
        (fun t => pulse .dataPullUp 3 1 t && t.period? 0 == some 3) = true ∧
      edge (acq .dataPullDown .high 0 7) (ins false false true false) 0x09D
        (fun t => pulse .dataPullUp 1 8 t && t.periods == [(7, 1)]) = true ∧
      edge { acq .dataPullDown .high 99 39 with unch := 99 } (ins false false true false) 0x09D
        (fun t => pulse .dataPullUp 100 40 t && t.period? 39 == some 100 && t.unch == 0) = true := by
  decide +kernel

/-- V25 to V27: the 40th period is stored, the 41st counted, the 42nd neither. -/
theorem test_dpdL_saturates :
    edge (acq .dataPullDown .high 6 39) (ins false false true false) 0x09D
        (fun t => pulse .dataPullUp 7 40 t && t.periods == [(39, 7)]) = true ∧
      edge (acq .dataPullDown .high 6 40) (ins false false true false) 0x09D
        (fun t => pulse .dataPullUp 7 41 t && t.periods == []) = true ∧
      edge (acq .dataPullDown .high 6 41) (ins false false true false) 0x09D
        (fun t => pulse .dataPullUp 7 41 t && t.periods == []) = true := by decide +kernel

/-- V23 and V10 -/
theorem test_dpdH :
    edge (acq .dataPullDown .high 0 0) (ins false false true true) 0x0DD (pulse .dataPullDown 1 0) =
        true ∧
      edge { acq .dataPullDown .high 98 0 with unch := 98 } (ins false false true true) 0x0DD
        (fun t => pulse .dataPullDown 99 0 t && t.unch == 99) = true := by decide +kernel

/-- V11: the 101st equal sample ends acquisition. -/
theorem test_dpdH_ends :
    edge { acq .dataPullDown .high 99 0 with unch := 99 } (ins false false true true) 0x0DD
      (fun t => t.phase == .decode && t.unch == 100 && t.cnt == 100) = true := by decide +kernel

/-! ### DECODE -/

/-- A state of DECODE with the given periods recorded. -/
def recorded (ps : List Nat) : State :=
  { acq .dataPullDown .high 100 ps.length with
    phase := .decode
    periods := (ps.take 40).mapIdx fun i p => (i, .ofNat 16 p) }

/-- ERR, HUM, TEMP and FRAME after DECODE. -/
def result (e : ErrKind) (hum temp : Byte) (frame : Frame) (t : State) : Bool :=
  t.phase == .idle && t.rdy && t.err == e && t.hum == hum && t.temp == temp && t.frame == frame

/-- V13, V51, V53: every count but 40 fails alike, whatever P holds. -/
theorem test_decode_missing :
    edge { State.reset with phase := .decode } (ins false true true true) 0x1E1
        (result .missingData 0xFF 0xFF 0) = true ∧
      edge (recorded (List.replicate 39 4)) (ins false false false false) 0x025
        (result .missingData 0xFF 0xFF 0) = true ∧
      edge (recorded (List.replicate 41 4)) (ins false false false false) 0x025
        (result .missingData 0xFF 0xFF 0) = true := by decide +kernel

/-- V54 (scenario A), V55 (a tie decodes to 0), V57 and V59 -/
theorem test_decode_frames :
    let a := [3, 8, 8, 8, 8, 3, 3] ++ List.replicate 8 3 ++ [3, 3, 3, 8, 8, 3, 3, 8] ++
      List.replicate 8 3 ++ [3, 8, 3, 8, 3, 8, 3, 8]
    edge (recorded (3 :: a)) (ins false false false false) 0x025
        (result .noError 60 25 0x3C00190055) = true ∧
      edge (recorded ([3, 7, 5, 6] ++ List.replicate 36 3)) (ins false false false false) 0x025
        (result .crc 0xFF 0xFF 0x5000000000) = true ∧
      edge (recorded (List.replicate 40 4)) (ins false false false false) 0x025
        (result .noError 0 0 0) = true ∧
      edge (recorded (40 :: a)) (ins false false false false) 0x025
        (result .crc 0xFF 0xFF 0x8000000000) = true := by decide +kernel

/-- V31 to V36: the comparator around the threshold, the tie of V32 included. -/
theorem test_threshold :
    [3, 5, 6, 8].map (slice (thresh 3 8)) = [false, false, true, true] ∧
      [3, 5, 6, 7].map (slice (thresh 3 7)) = [false, false, true, true] ∧
      [4].map (slice (thresh 4 4)) = [false] ∧
      [1, 50, 51, 100].map (slice (thresh 1 100)) = [false, false, true, true] ∧
      [3, 4].map (slice (thresh 3 4)) = [false, true] ∧
      [27, 48, 49, 70].map (slice (thresh 27 70)) = [false, false, true, true] := by decide

/-- V38: the first bit is bit 7 of byte 0, the last bit 0 of byte 4; and V39's bytes. -/
theorem test_packer :
    packBits ([true] ++ List.replicate 38 false ++ [true]) = 0x8000000001 ∧
      byteOf 0x8000000001 0 = 128 ∧ byteOf 0x8000000001 4 = 1 ∧
      (List.range 5).map (byteOf 0x010204080F) = [1, 2, 4, 8, 15] := by decide +kernel

/-- V40, V41, V43, V45, V46, V48, V49: carries are dropped. -/
theorem test_checksum :
    csumOk 0x3C00190055 = true ∧ csumOk 0x3C00190056 = false ∧ csumOk 0xFFFFFFFFFC = true ∧
      csumOk 0x8080000000 = true ∧ csumOk 0x8080000001 = false ∧ csumOk 0xC864321977 = true ∧
      csumOk 0x8102040810 = false := by decide +kernel

/-! ### STATUS, parameters, written programs -/

/-- P0 after edges 17 and 21, and the end state of P1 (R27). -/
theorem test_status :
    State.status { acq .dataPullUp .low 3 1 with params := ⟨3, 2, 1⟩ } = 0x4188 ∧
      State.status { acq .dataPullUp .low 6 1 with phase := .idle, rdy := true, err := .missingData } =
        0x4185 ∧
      State.status { acq .dataPullDown .high 100 40 with phase := .idle, rdy := true } = 0x68B4 := by
  decide +kernel

/-- The codes of R44 on the port `err`. -/
theorem test_err_codes :
    State.reset.outputs.err = 0 ∧ (State.reset.raise .missingData).outputs.err = 1 ∧
      (State.reset.raise .crc).outputs.err = 2 := by decide

/-- R5: 50 000 and 20 000 ticks at 1 MHz, and a rate that does not divide is rounded up. -/
theorem test_tick_rate :
    Params.ofTickRate 1000000 100 = Params.nominal ∧ Params.ofTickRate 101 100 = ⟨100, 6, 3⟩ := by decide

/-- The samples of P0 and the hexadecimal form of P0 and of P3a (R53). -/
theorem test_pack_samples :
    let p0 : List Run :=
      [⟨.high, 1⟩, ⟨.low, 2⟩, ⟨.high, 2⟩, ⟨.low, 1⟩, ⟨.high, 3⟩, ⟨.low, 4⟩]
    packSamples (runSamples p0) = [0x9B, 0x80] ∧ (runSamples p0).length = 13 ∧
      packSamples (programSamples 100 [.idleH]) = List.replicate 12 0xFF ++ [0xF8] := by decide +kernel

/-- P1: 499 samples, and the first ten bytes of its hexadecimal form (R54). -/
theorem test_frame_program :
    let p1 := programSamples 100
      [.pre 2 8 8, .frame5 60 0 25 0 85 5 3 8, .endLow 5, .idleH]
    p1.length = 499 ∧
      (packSamples p1).take 10 = [0xc0, 0x3f, 0xc1, 0xc1, 0xc1, 0xfe, 0x0f, 0xf0, 0x7f, 0x83] := by
  decide +kernel

/-- V28 to V30: the periods of a sample sequence. -/
theorem test_periods :
    periodsOf (runSamples [⟨.low, 1⟩, ⟨.high, 1⟩, ⟨.low, 1⟩, ⟨.high, 3⟩, ⟨.low, 1⟩]) = [3] ∧
      periodsOf (runSamples [⟨.high, 5⟩, ⟨.low, 2⟩, ⟨.high, 2⟩, ⟨.low, 4⟩, ⟨.high, 1⟩, ⟨.low, 1⟩,
        ⟨.high, 7⟩, ⟨.low, 1⟩, ⟨.high, 2⟩]) = [1, 7] ∧
      periodsOf (runSamples [⟨.low, 1⟩, ⟨.high, 1⟩, ⟨.low, 3⟩, ⟨.high, 2⟩]) = [] := by decide

/-- The operations of P0, edges 8 to 11, by their mnemonics (R56). -/
theorem test_trace :
    let s := { acq .initialPullDown .high 1 0 with params := ⟨3, 2, 1⟩ }
    (trace 4 (s.withPins [ins false false true false, ins false false true false,
      ins false false false true, ins false false true true])).map Instr.mnemonic =
      ["IPD.L", "IPU.L", "ACQ.HOLD", "IPU.H"] := by decide +kernel

/-- P is kept in its canonical form by writes in any order. -/
theorem test_memory :
    Memory.write [(0, 3), (2, 5)] 1 8 = [(0, 3), (1, 8), (2, 5)] ∧ ¬Memory.wf [(1, 3), (0, 5)] ∧
      ¬Memory.wf [(40, 1)] := by decide

/-! ### Witnesses -/

/-- The parameters of P0. -/
def small : Params := ⟨3, 2, 1⟩

/-- A block with no sample taken yet in this cycle. -/
def fresh (ph : Phase) (pue : Bool) (ps : List Pins) : State :=
  { State.reset with phase := ph, pue := pue, params := small, pins := ps }

/-- The block of P3a with P0's parameters, after its last sample. -/
def still (ps : List Pins) : State :=
  { fresh .decode true ps with unch := 3, cnt := 4, last := .high, lastv := true }

/-- Inside the first data bit's LOW run, one sample into it. -/
def inData (ps : List Pins) : State :=
  { fresh .acquire true ps with pstate := .dataPullUp, cnt := 6, last := .low, lastv := true }

/-- The block of P3a after DECODE. -/
def delivered (ps : List Pins) : State :=
  { still ps with phase := .idle, rdy := true, err := .missingData }

/-- The first three parts of the invariant, for a state of these tests with nothing recorded. -/
theorem nothing_recorded {s : State} (hp : s.params = small) (hm : s.periods = []) (hc : s.pcount = 0) :
    s.params.wf ∧ Memory.wf s.periods ∧ RecordedInv s := by
  refine ⟨by rw [hp]; decide, by rw [hm]; decide, ?_, fun i hi => ?_⟩
  · rw [hc]
    decide
  · rw [hc] at hi
    simp at hi

theorem fresh_inv (ph : Phase) (pue : Bool) (ps : List Pins) (hd : ph ≠ .decode)
    (hl : pue = true ↔ ph = .acquire) : Inv (fresh ph pue ps) where
  params := (nothing_recorded rfl rfl rfl).1
  memory := (nothing_recorded rfl rfl rfl).2.1
  recorded := (nothing_recorded rfl rfl rfl).2.2
  timer := by cases ph <;> simp [TimerInv, fresh, small, State.reset]
  idle := ⟨Nat.zero_le 3, fun _ => (by decide : 0 < 3), fun h => absurd h hd⟩
  fresh := ⟨fun _ => ⟨rfl, rfl, rfl, rfl, rfl⟩, fun _ => rfl⟩
  pulse := nofun
  result := ⟨nofun, fun _ => ⟨rfl, rfl, rfl, rfl⟩⟩
  line := by simp [LineInv, fresh, State.reset, hl, hd]

theorem still_inv (ps : List Pins) : Inv (still ps) where
  params := (nothing_recorded rfl rfl rfl).1
  memory := (nothing_recorded rfl rfl rfl).2.1
  recorded := (nothing_recorded rfl rfl rfl).2.2
  timer := rfl
  idle := ⟨Nat.le_refl 3, nofun, fun _ => rfl⟩
  fresh := ⟨nofun, nofun⟩
  pulse := fun _ => ⟨rfl, rfl, rfl⟩
  result := ⟨nofun, fun _ => ⟨rfl, rfl, rfl, rfl⟩⟩
  line := ⟨fun _ => .inr (.inl rfl), fun _ => rfl⟩

theorem inData_inv (ps : List Pins) : Inv (inData ps) where
  params := (nothing_recorded rfl rfl rfl).1
  memory := (nothing_recorded rfl rfl rfl).2.1
  recorded := (nothing_recorded rfl rfl rfl).2.2
  timer := rfl
  idle := ⟨Nat.zero_le 3, fun _ => (by decide : 0 < 3), nofun⟩
  fresh := ⟨nofun, nofun⟩
  pulse := fun _ => ⟨rfl, (by decide : 6 ≤ 3 * 3 + 0 + 1)⟩
  result := ⟨nofun, fun _ => ⟨rfl, rfl, rfl, rfl⟩⟩
  line := ⟨fun _ => .inl rfl, fun _ => rfl⟩

theorem delivered_inv (ps : List Pins) : Inv (delivered ps) where
  params := (nothing_recorded rfl rfl rfl).1
  memory := (nothing_recorded rfl rfl rfl).2.1
  recorded := (nothing_recorded rfl rfl rfl).2.2
  timer := rfl
  idle := ⟨Nat.le_refl 3, nofun, nofun⟩
  fresh := ⟨nofun, nofun⟩
  pulse := fun _ => ⟨rfl, rfl, rfl⟩
  result := ⟨fun _ => ⟨rfl, .inr (.inr ⟨rfl, rfl, rfl, rfl⟩)⟩, nofun⟩
  line := ⟨fun _ => .inr (.inr rfl), fun _ => rfl⟩

theorem ticks_of_samples (ls : List Level) : AllTicks (ls.map samplePins) := by
  intro p hp
  obtain ⟨l, -, rfl⟩ := List.mem_map.1 hp
  exact ⟨rfl, rfl⟩

theorem din_of_samples (ls : List Level) : (ls.map samplePins).map Pins.din = ls := by
  rw [List.map_map]
  exact List.map_id _

theorem witness_DecodeOfEncodeIsTheOperation : decode 0x09D = .ok .dpdL := by decide +kernel

theorem witness_EveryWordIsReservedOrSelectsOneRow :
    reservedByPhase 0b0_0_0_0_101_001 ∧ reservedByPhase 0b0_1_1_1_111_111 ∧
      reservedByPState 0b0_0_1_0_011_000 ∧ reservedByPState 0b0_0_1_0_011_110 ∧
      ¬reservedByPhase 0b0_0_0_0_100_111 ∧ ¬reservedByPState 0b0_0_1_0_011_101 := by
  unfold reservedByPhase reservedByPState
  decide

theorem witness_StepRunsTheDecodedOperation :
    decode (fresh .idle false [ins false true false false]).dispatchWord = .ok .idleStart ∧
      (fresh .idle false [ins false true false false]).pins = ins false true false false :: [] := by
  decide +kernel

/-- Every row of "selected when", as the operation its own state and inputs select. -/
theorem witness_EachRowIsPerformedWhenSelected :
    [(Phase.acquire, PState.dataPullDown, ins true false true true),
      (.idle, .dataPullDown, ins false false true true), (.idle, .dataPullDown, ins false true true true),
      (.startHigh, .initialPullDown, ins false true false true),
      (.startHigh, .initialPullDown, ins false true true true),
      (.startLow, .initialPullDown, ins false true false true),
      (.startLow, .initialPullDown, ins false true true true),
      (.acquire, .dataPullUp, ins false true false true),
      (.acquire, .initialPullDown, ins false true true false),
      (.acquire, .initialPullDown, ins false true true true),
      (.acquire, .initialPullUp, ins false true true false),
      (.acquire, .initialPullUp, ins false true true true),
      (.acquire, .dataFirstPullDown, ins false true true false),
      (.acquire, .dataFirstPullDown, ins false true true true),
      (.acquire, .dataPullUp, ins false true true false),
      (.acquire, .dataPullUp, ins false true true true),
      (.acquire, .dataPullDown, ins false true true false),
      (.acquire, .dataPullDown, ins false true true true),
      (.decode, .dataPullDown, ins false true false false)].map
        (fun x => (decode (wordOf x.2.2 x.1 x.2.1)).toOption) =
      [Instr.reset, .idleHold, .idleStart, .sthHold, .sthTick, .stlHold, .stlTick, .acqHold, .ipdL, .ipdH,
        .ipuL, .ipuH, .dfpdL, .dfpdH, .dpuL, .dpuH, .dpdL, .dpdH, .decode].map some := by decide +kernel

/-- One word that fills both registers, and one whose ignored fields hold codes no register can hold. -/
theorem witness_PlacedWordIsRunNext :
    decodeTableWord 10 0x09D = some .dpdL ∧ decodeTableWord 16 0x207 = some .reset ∧
      decodeTableWord 16 0x01F = some .acqHold := by decide +kernel

/-- Two different input values that each phase cannot tell apart, and two under `rst`. -/
theorem witness_UnseenInputsHaveNoEffect :
    sameSeen .idle (ins false true false false) (ins false true true true) ∧
      sameSeen .startHigh (ins false true true false) (ins false false true true) ∧
      sameSeen .startLow (ins false true false false) (ins false false false true) ∧
      sameSeen .acquire (ins false true true true) (ins false false true true) ∧
      sameSeen .acquire (ins false true false true) (ins false false false false) ∧
      sameSeen .decode (ins false true false true) (ins false false true false) ∧
      sameSeen .acquire (ins true true false true) (ins true false true false) := by
  unfold sameSeen
  decide

theorem witness_ResetOperation :
    (inData [ins true false true true]).nextPins.rst = true ∧
      ∃ t, exec .reset (inData []) = .next t := ⟨rfl, _, rfl⟩

theorem witness_QuietEdgesChangeNothing :
    (∀ p ∈ [ins false false true true], holds .idle p) ∧ (∀ p ∈ [ins false true false true], holds .startHigh p) ∧
      (∀ p ∈ [ins false true false true], holds .startLow p) ∧
      (∀ p ∈ [ins false true false true, ins false false false false], holds .acquire p) ∧
      (fresh .acquire true [ins false true false true, ins false false false false]).pins =
        [ins false true false true] ++ [ins false false false false] := by
  unfold holds
  decide

theorem witness_StartHighTick :
    1 ≤ small.startHighTicks ∧
      let s := fresh .startHigh false ([.low, .high].map samplePins ++ [])
      s.params.wf ∧ s.phase = .startHigh ∧ s.timer = 0 ∧ AllTicks ([.low, .high].map samplePins) ∧
        ([Level.low, .high].map samplePins).length = s.params.startHighTicks ∧
        s.pins = [.low, .high].map samplePins ++ [] :=
  ⟨by decide, by decide, rfl, rfl, ticks_of_samples _, rfl, rfl⟩

theorem witness_StartLowTick :
    1 ≤ small.startLowTicks ∧
      let s := fresh .startLow false ([.high].map samplePins ++ [])
      s.params.wf ∧ s.phase = .startLow ∧ s.timer = 0 ∧ AllTicks ([.high].map samplePins) ∧
        ([Level.high].map samplePins).length = s.params.startLowTicks ∧
        s.pins = [.high].map samplePins ++ [] :=
  ⟨by decide, by decide, rfl, rfl, ticks_of_samples _, rfl, rfl⟩

theorem witness_HandshakeReachesAcquire :
    let ps := [Level.low, .high, .low].map samplePins
    let s := fresh .idle false (ins false true false false :: (ps ++ []))
    s.params.wf ∧ s.phase = .idle ∧ AllTicks ps ∧
      ps.length = s.params.startHighTicks + s.params.startLowTicks ∧
      s.pins = ins false true false false :: (ps ++ []) ∧ 1 ≤ 1 ∧ 1 ≤ ps.length :=
  ⟨by decide, rfl, ticks_of_samples _, rfl, rfl, by decide, by decide⟩

/-- Each of the eight sequencer operations answers a next state. -/
theorem witness_SequencerFrame (s : State) :
    ∀ i ∈ [Instr.reset, .idleHold, .idleStart, .sthHold, .sthTick, .stlHold, .stlTick, .acqHold],
      ∃ t, exec i s = .next t := by
  intro i hi
  fin_cases hi <;> exact ⟨_, rfl⟩

/-- Each of the ten sample operations has its sample and answers a next state: the witness of
SampleOperationsShareTheIdleDetector and of SampleFrame. -/
theorem witness_SampleFrame (s : State) :
    ∀ i ∈ [Instr.ipdL, .ipdH, .ipuL, .ipuH, .dfpdL, .dfpdH, .dpuL, .dpuH, .dpdL, .dpdH],
      (∃ l, sampleLevel i = some l) ∧ ∃ t, exec i s = .next t := by
  intro i hi
  fin_cases hi <;> exact ⟨⟨_, rfl⟩, _, rfl⟩

theorem witness_SampleOperationsShareTheIdleDetector :
    (sampleLevel .dpuH = some .high ∧ sampleLevel .dpdL = some .low ∧ Instr.dpdL ≠ .dpuH) ∧
      let ps := [Level.high, .high, .high, .high].map samplePins
      let s := inData (ps ++ [])
      s.params.wf ∧ s.phase = .acquire ∧ Level.high ≠ s.last ∧ AllTicks ps ∧ (∀ p ∈ ps, p.din = .high) ∧
        1 ≤ ps.length ∧ ps.length ≤ s.params.idleBound + 1 ∧ s.pins = ps ++ [] :=
  ⟨by decide, by decide, rfl, by decide, ticks_of_samples _, by decide, by decide, by decide, rfl⟩

/-- Both sides of the two bounds on PCOUNT. -/
theorem witness_ClosingLowSampleRecordsThePeriod :
    (acq .dataPullDown .high 2 39).pcount.toNat < 40 ∧ ¬(acq .dataPullDown .high 2 40).pcount.toNat < 40 ∧
      (acq .dataPullDown .high 2 40).pcount.toNat < 41 ∧ ¬(acq .dataPullDown .high 2 41).pcount.toNat < 41 := by
  decide

/-- The longest run that does not end acquisition. -/
theorem witness_PeriodIsTheLengthOfItsHighRun :
    let ps := [Level.high, .high, .high].map samplePins
    let s := inData (ps ++ samplePins .low :: [])
    s.params.wf ∧ s.phase = .acquire ∧ s.pstate = .dataPullUp ∧ s.lastv = true ∧ s.last = .low ∧
      s.pcount.toNat < 40 ∧ 1 ≤ ps.length ∧ ps.length ≤ s.params.idleBound ∧
      AllTicks (ps ++ [samplePins .low]) ∧ (∀ p ∈ ps, p.din = .high) ∧
      (samplePins .low).din = .low ∧ s.pins = ps ++ samplePins .low :: [] :=
  ⟨by decide, rfl, rfl, rfl, rfl, by decide, by decide, by decide,
    ticks_of_samples [.high, .high, .high, .low], by decide, rfl, rfl⟩

/-- The samples of P0, which record one period and end acquisition. -/
theorem witness_MachineRecordsThePeriodsOfTheSamples :
    let ls := runSamples [⟨.high, 1⟩, ⟨.low, 2⟩, ⟨.high, 2⟩, ⟨.low, 1⟩, ⟨.high, 3⟩, ⟨.low, 4⟩]
    let ps := ls.map samplePins
    let s := fresh .acquire true (ps ++ [])
    Inv s ∧ s.phase = .acquire ∧ s.lastv = false ∧ AllTicks ps ∧ s.pins = ps ++ [] ∧
      (∀ r ∈ (runsOf (ps.map Pins.din)).dropLast, r.len ≤ s.params.idleBound) ∧
      (∀ r ∈ runsOf (ps.map Pins.din), r.len ≤ s.params.idleBound + 1) ∧ periodsOf ls = [3] :=
  ⟨fresh_inv _ _ _ (by decide) (by decide), rfl, rfl, ticks_of_samples _, rfl, by decide, by decide,
    by decide⟩

theorem witness_StillLineEndsAcquisition :
    let ps := [Level.high, .high, .high, .high].map samplePins
    let s := inData (ps ++ [])
    Inv s ∧ s.phase = .acquire ∧ AllTicks ps ∧ (∀ p ∈ ps, p.din = .high) ∧
      ps.length = s.params.idleBound + 1 ∧ s.pins = ps ++ [] :=
  ⟨inData_inv _, rfl, ticks_of_samples _, by decide, rfl, rfl⟩

/-- The counts on either side of 40; the second clause's states are those of the next witness. -/
theorem witness_WrongPeriodCountIsMissingData :
    (acq .dataPullDown .high 2 39).pcount.toNat ≠ 40 ∧ (acq .dataPullDown .high 2 41).pcount.toNat ≠ 40 := by
  decide

/-- The state before DECODE of a cycle that recorded the periods 1 to 40, in an invariant state. -/
def forty : State := { recorded ((List.range 40).map fun i => i + 1) with unch := 100 }

theorem forty_inv : Inv forty where
  params := by decide
  memory := by decide +kernel
  recorded := by
    have h : ∀ i < 40, forty.period? i = some (BitVec.ofNat 16 (i + 1)) ∧
        1 ≤ (BitVec.ofNat 16 (i + 1)).toNat ∧ (BitVec.ofNat 16 (i + 1)).toNat ≤ 100 := by decide +kernel
    exact ⟨by decide, fun i hi => ⟨_, h i (Nat.lt_of_lt_of_le hi (Nat.min_le_right _ _))⟩⟩
  timer := rfl
  idle := ⟨Nat.le_refl 100, nofun, fun _ => rfl⟩
  fresh := ⟨nofun, nofun⟩
  pulse := fun _ => ⟨rfl, rfl⟩
  result := ⟨nofun, fun _ => ⟨rfl, rfl, rfl, rfl⟩⟩
  line := ⟨fun _ => .inr (.inl rfl), fun _ => rfl⟩

/-- Forty recorded periods, in an invariant state and with unequal extremes. -/
theorem witness_PeriodsAreSlicedAgainstOneThreshold :
    Inv forty ∧ forty.pcount.toNat = 40 ∧
      ∀ i < 40, forty.periods.read i = some (BitVec.ofNat 16 (i + 1)) :=
  ⟨forty_inv, by decide +kernel⟩

/-- Both verdicts are met by `test_decode_frames` (V54, V59). -/
theorem witness_ChecksumDecidesTheResult :
    (recorded (List.replicate 40 4)).pcount.toNat = 40 ∧
      ∀ i < 40, (recorded (List.replicate 40 4)).periods.read i = some 4 := by decide +kernel

theorem witness_DecodeFrame : ∃ t, exec .decode (still []) = .next t := ⟨_, rfl⟩

/-- Forty periods counted, entry 39 never written. -/
theorem witness_UnwrittenPeriodStopsDecode :
    let s := { recorded (List.replicate 39 4) with pcount := 40 }
    s.pcount.toNat = 40 ∧ s.periods.read 39 = none ∧ ∀ i < 39, s.periods.read i ≠ none := by
  decide +kernel

/-- The premise on the extremes, with a half to truncate (V31). -/
theorem witness_ThresholdIsTheRationalMidpoint : (3 : Period) ≤ 8 := by decide

/-- A sample, and a padding bit of the same byte. -/
theorem witness_PackedSamplesKeepEverySample :
    0 < 8 * (packSamples [.high]).length ∧ 7 < 8 * (packSamples [.high]).length := by decide

/-- Each clause of R100: a least and a greatest period, unequal ones, equal ones, an addition and a
multiplication that stay within CW bits. -/
theorem witness_ThresholdLaws :
    let ps : List Period := [3, 8]
    (ps[0]? = some 3 ∧ ∀ q ∈ ps, 3 ≤ q) ∧ (ps[1]? = some 8 ∧ (∀ q ∈ ps, q ≤ 8) ∧ ∃ q ∈ ps, q ≠ 8) ∧
      (∀ q ∈ ([4, 4] : List Period), q = 4) ∧ (∀ q ∈ ps, q.toNat + (65527 : Period).toNat < 2 ^ 16) ∧
      (9 : Period) ≠ 0 ∧ ∀ q ∈ ps, q.toNat * (9 : Period).toNat < 2 ^ 16 := by
  simp

theorem witness_EqualPeriodsReadAsZero :
    (recorded (List.replicate 40 100)).pcount.toNat = 40 ∧
      ∀ i < 40, (recorded (List.replicate 40 100)).periods.read i = some 100 := by decide +kernel

/-- Two states that differ in CNT and in a stale entry of P. -/
theorem witness_ResultDependsOnThePeriodsAlone :
    let s := still []
    let s' := { s with cnt := 0, periods := [(0, 7)] }
    s.pcount = s'.pcount ∧ (∀ i < 40, s.period? i = s'.period? i) ∧ ResultCleared s ∧
      ResultCleared s' ∧ (∃ t, exec .decode s = .next t) :=
  ⟨rfl, by decide, ⟨rfl, rfl, rfl, rfl⟩, ⟨rfl, rfl, rfl, rfl⟩, ⟨_, rfl⟩⟩

/-- The fault clauses of ResultDependsOnThePeriodsAlone and of
FlagsAreWrittenByThreeOperationsAndReadByNone: a state, which no run reaches, on which DECODE stops. -/
theorem witness_DecodeFaults :
    ∃ f, exec .decode { still [] with pcount := 40 } = .fault f := ⟨_, rfl⟩

theorem witness_ResultHasOneOfThreeShapes :
    ResultCleared (still []) ∧ ∃ t, exec .decode (still []) = .next t := ⟨⟨rfl, rfl, rfl, rfl⟩, _, rfl⟩

/-- Both premises: a writer other than DPD.L that answers, DPD.L itself, and DECODE at a count of 0. -/
theorem witness_PeriodMemoryHasOneWriterAndOneReader :
    (∃ t, exec .reset (still []) = .next t) ∧ Instr.reset ≠ .dpdL ∧ Instr.dpdL ≠ .decode ∧
      (still []).pcount.toNat ≠ 40 := ⟨⟨_, rfl⟩, by decide, by decide, by decide⟩

/-- A state of the invariant in every phase, IDLE after a completed cycle included. -/
theorem witness_LineOutputsByPhase :
    Inv (fresh .idle false []) ∧ Inv (fresh .startHigh false []) ∧ Inv (fresh .startLow false []) ∧
      Inv (fresh .acquire true []) ∧ Inv (still []) ∧ Inv (delivered []) :=
  ⟨fresh_inv _ _ _ (by decide) (by decide), fresh_inv _ _ _ (by decide) (by decide),
    fresh_inv _ _ _ (by decide) (by decide), fresh_inv _ _ _ (by decide) (by decide), still_inv _,
    delivered_inv _⟩

theorem witness_FlagsAreWrittenByThreeOperationsAndReadByNone :
    (∃ t, exec .decode (still []) = .next t) ∧ (∃ t, exec .idleStart (delivered []) = .next t) ∧
      (∃ t, exec .dpdL (inData []) = .next t) := ⟨⟨_, rfl⟩, ⟨_, rfl⟩, ⟨_, rfl⟩⟩

/-- The three outcomes: a count of 0, and forty recorded periods (V59's mismatch and V57's match are
computed in `test_decode_frames`). -/
theorem witness_ErrCodeTellsTheOutcome :
    (∃ t, exec .decode (still []) = .next t) ∧ (still []).pcount.toNat ≠ 40 ∧
      (∃ t, exec .decode (recorded (List.replicate 40 4)) = .next t) ∧
      (recorded (List.replicate 40 4)).pcount.toNat = 40 :=
  ⟨⟨_, rfl⟩, by decide, ⟨_, rfl⟩, by decide⟩

/-- The witness of EveryStepKeepsTheInvariant, of NoFaultFromAnInvariantState and of
ParametersNeverChange: a state of the invariant, and the step it takes. -/
theorem witness_EveryStepKeepsTheInvariant :
    Inv (inData [samplePins .high]) ∧ ∃ t, step (inData [samplePins .high]) = .next t :=
  ⟨inData_inv _, _, rfl⟩

theorem witness_NoFaultFromAnInvariantState : Inv (still [samplePins .low]) := still_inv _

theorem witness_ParametersNeverChange : ∃ t, step (still [samplePins .low]) = .next t := ⟨_, rfl⟩

theorem witness_CounterNeverWraps :
    let s := inData [samplePins .low]
    Inv s ∧ (∃ t, step s = .next t) ∧ s.phase = .acquire ∧ s.nextPins.rst = false ∧
      s.nextPins.tick = true ∧ ¬(s.pstate = .dataPullUp ∧ s.nextPins.din = .high) :=
  ⟨inData_inv _, ⟨_, rfl⟩, rfl, rfl, rfl, by decide⟩

/-- Both clauses: an edge under `rst`, an edge without. -/
theorem witness_PhasesFollowTheirOrder :
    ((∃ t, step (still [ins true false false false]) = .next t) ∧
        (still [ins true false false false]).nextPins.rst = true) ∧
      (∃ t, step (still [ins false false false false]) = .next t) ∧
        (still [ins false false false false]).nextPins.rst = false := ⟨⟨⟨_, rfl⟩, rfl⟩, ⟨_, rfl⟩, rfl⟩

/-- Both clauses: IDLE.START, and a sample that moves PSTATE. -/
theorem witness_PulseStatesFollowTheirOrder :
    ((∃ t, step (delivered [ins false true false false]) = .next t) ∧
        (delivered [ins false true false false]).phase = .idle ∧
        (delivered [ins false true false false]).nextPins.start = true) ∧
      (∃ t, step (inData [samplePins .high]) = .next t) ∧
        (inData [samplePins .high]).nextPins.rst = false ∧ (inData [samplePins .high]).phase ≠ .idle :=
  ⟨⟨⟨_, rfl⟩, rfl, rfl⟩, ⟨_, rfl⟩, rfl, by decide⟩

theorem witness_HeldStartShowsTheResultForOnePeriod :
    let p := ins false true false false
    Inv (still [p, p]) ∧ (still [p, p]).phase = .decode ∧ (still [p, p]).pins = p :: p :: [] ∧
      p.rst = false ∧ p.start = true := ⟨still_inv _, rfl, rfl, rfl, rfl⟩

/-- Scenario A with bits of one and two samples, for IDLE_BOUND = 3, with no leading HIGH. -/
def sent : List Pseudo := [.pre 0 1 1, .frame5 60 0 25 0 85 1 1 2, .endLow 1, .idleH]

/-- The inputs that give the block the samples `ls`, and one more edge. -/
theorem samples_reach (ls : List Level) :
    let ps := ls.map samplePins
    let s := fresh .acquire true (ps ++ samplePins .low :: [])
    (Inv s ∧ s.phase = .acquire ∧ s.lastv = false ∧ s.params = small) ∧
      (AllTicks ps ∧ (samplePins .low).rst = false ∧ s.pins = ps ++ samplePins .low :: []) ∧
      ps.map Pins.din = ls :=
  ⟨⟨fresh_inv _ _ _ (by decide) (by decide), rfl, rfl, rfl⟩, ⟨ticks_of_samples _, rfl, rfl⟩,
    din_of_samples _⟩

/-- `samples_reach` at the samples of `sent` gives the premises on the state and on the inputs, with
IDLE_BOUND = 3; these are the premises on the numbers. -/
theorem witness_FrameSentIsTheFrameReported :
    (∃ (s : State) (ps : List Pins), Inv s ∧ s.phase = .acquire ∧ s.lastv = false ∧ AllTicks ps ∧
        (samplePins .low).rst = false ∧ s.pins = ps ++ samplePins .low :: [] ∧
        ps.map Pins.din = programSamples s.params.idleBound sent ∧
        (0 ≤ s.params.idleBound ∧ 1 ≤ s.params.idleBound ∧ 1 < 2 ∧ 2 ≤ s.params.idleBound)) ∧
      frameOf 60 0 25 0 85 ≠ BitVec.allOnes 40 ∧
      ((60 : Byte).toNat + (0 : Byte).toNat + (25 : Byte).toNat + (0 : Byte).toNat) % 256 =
        (85 : Byte).toNat := by
  refine ⟨?_, by decide, by decide⟩
  obtain ⟨⟨h1, h2, h3, h4⟩, ⟨h5, h6, h7⟩, h8⟩ := samples_reach (programSamples 3 sent)
  refine ⟨_, _, h1, h2, h3, h5, h6, h7, ?_, ?_⟩
  · rw [h4]
    exact h8
  · rw [h4]
    decide

end Sys2Proof.Tests
end

/-! PROOFS. The codes of the enumerations, the output ports and the fields of STATUS (R26, R27, R44 to
R46), and what RESET and IDLE.START leave (R31). -/

namespace Sys2Proof

/-! ### Codes -/

theorem ErrKind.code_inj {e e' : ErrKind} : e.code = e'.code ↔ e = e' := by
  cases e <;> cases e' <;> decide

theorem ErrKind.code_ne_three (e : ErrKind) : e.code ≠ 3 := by cases e <;> decide

@[simp] theorem Phase.ofCode_code (ph : Phase) : Phase.ofCode ph.code = some ph := by
  cases ph <;> rfl

theorem Phase.code_inj {ph ph' : Phase} : ph.code = ph'.code ↔ ph = ph' :=
  ⟨fun h => by simpa using congrArg Phase.ofCode h, congrArg _⟩

theorem Phase.code_legal (ph : Phase) : legalPhaseCode ph.code := by cases ph <;> decide

@[simp] theorem PState.ofCode_code (q : PState) : PState.ofCode q.code = some q := by cases q <;> rfl

theorem PState.code_inj {q q' : PState} : q.code = q'.code ↔ q = q' :=
  ⟨fun h => by simpa using congrArg PState.ofCode h, congrArg _⟩

theorem PState.code_legal (q : PState) : legalPStateCode q.code := by cases q <;> decide

end Sys2Proof

namespace Sys2Proof.Machine

/-! ### Derived outputs -/

theorem State.busy_iff (s : State) : s.busy = true ↔ s.phase ≠ .idle := bne_iff_ne

theorem State.valid_iff (s : State) : s.valid = true ↔ s.rdy = true ∧ s.err = .noError := by
  simp [State.valid]

theorem State.lineOe_iff (s : State) :
    s.lineOe = true ↔ s.phase = .startHigh ∨ s.phase = .startLow := by
  simp [State.lineOe]

theorem State.lineOut_iff (s : State) : s.lineOut = true ↔ s.phase = .startHigh := beq_iff_eq

/-- Settles O38: each port is its register or one of the four derived outputs, and codes are injective
and never reserved. -/
theorem outputPorts : Obligations.OutputPorts := by
  intro s
  refine ⟨s.lineOe_iff, s.lineOut_iff, rfl, s.busy_iff, rfl, s.valid_iff, rfl, rfl, rfl, rfl, rfl, rfl,
    rfl, ?err, ?phase, ?pstate⟩
  case err =>
    exact ⟨ErrKind.code_inj (e' := .noError), ErrKind.code_inj (e' := .missingData),
      ErrKind.code_inj (e' := .crc), s.err.code_ne_three⟩
  case phase =>
    exact ⟨Phase.code_inj (ph' := .idle), Phase.code_inj (ph' := .startHigh),
      Phase.code_inj (ph' := .startLow), Phase.code_inj (ph' := .acquire),
      Phase.code_inj (ph' := .decode), s.phase.code_legal⟩
  case pstate =>
    exact ⟨PState.code_inj (q' := .initialPullDown), PState.code_inj (q' := .initialPullUp),
      PState.code_inj (q' := .dataFirstPullDown), PState.code_inj (q' := .dataPullUp),
      PState.code_inj (q' := .dataPullDown), s.pstate.code_legal⟩

/-! ### STATUS -/

theorem State.status_err (s : State) : s.status.extractLsb' 0 2 = s.err.code :=
  BitVec.extractLsb'_append_eq_right

theorem State.status_rdy (s : State) : s.status.getLsbD 2 = s.rdy := by
  simp only [State.status, BitVec.getLsbD_append]
  simp

theorem State.status_busy (s : State) : s.status.getLsbD 3 = s.busy := by
  simp only [State.status, BitVec.getLsbD_append]
  simp

theorem State.status_valid (s : State) : s.status.getLsbD 4 = s.valid := by
  simp only [State.status, BitVec.getLsbD_append]
  simp

theorem State.status_pstate (s : State) : s.status.extractLsb' 5 3 = s.pstate.code := by
  simp (disch := omega) only [State.status, BitVec.extractLsb'_append_eq_of_le, Nat.reduceSub,
    BitVec.extractLsb'_append_eq_right]

theorem State.status_pcount (s : State) : s.status.extractLsb' 8 6 = s.pcount := by
  simp (disch := omega) only [State.status, BitVec.extractLsb'_append_eq_of_le, Nat.reduceSub,
    BitVec.extractLsb'_append_eq_right]

theorem State.status_pue (s : State) : s.status.getLsbD 14 = s.pue := by
  simp only [State.status, BitVec.getLsbD_append]
  simp

theorem State.status_reserved (s : State) : s.status.getLsbD 15 = false := by
  simp only [State.status, BitVec.getLsbD_append]
  simp

/-- STATUS at the reset values (R31). -/
theorem State.status_reset : State.reset.status = 0x0020 := rfl

/-- Settles O40, one field lemma for each field. -/
theorem statusLayout : Obligations.StatusLayout :=
  ⟨fun s => ⟨s.status_err, s.status_rdy, by rw [s.status_busy, s.busy_iff],
      by rw [s.status_valid, s.valid_iff], s.status_pstate, s.status_pcount, s.status_pue,
      s.status_reserved⟩,
    State.status_reset⟩

/-! ### What RESET and IDLE.START leave -/

/-- Entries of P left from an earlier cycle hold no value of the new one (R31). -/
@[simp] theorem State.clear_period? (s : State) (ph : Phase) (i : Nat) : (s.clear ph).period? i = none :=
  State.period?_of_ge (Nat.zero_le i)

/-- Clearing to IDLE gives every register of the block but P its reset value. -/
theorem State.clear_idle (s : State) :
    s.clear .idle =
      { State.reset with
        periods := s.periods, params := s.params, pins := s.pins, edge := s.edge } := rfl

/-- Settles O10: RESET and IDLE.START both clear, to IDLE and to START_HIGH. -/
theorem resetLeavesTheResetState : Obligations.ResetLeavesTheResetState := by
  intro s
  refine ⟨s.clear .idle, s.clear .startHigh, rfl, rfl, ?outputs, ?status, ?hidden, rfl, ?memory,
    s.clear_idle⟩
  case outputs => rw [s.clear_idle]; rfl
  case status => exact State.status_reset
  case hidden => simp
  case memory => simp

end Sys2Proof.Machine

/-! PROOFS. What each part of an operation does to PSTATE, and the order of the pulse states (R12). -/

namespace Sys2Proof.Machine

@[simp] theorem sthTicked_pstate (s : State) : (sthTicked s).pstate = s.pstate := by
  unfold sthTicked; split <;> rfl

@[simp] theorem stlTicked_pstate (s : State) : (stlTicked s).pstate = s.pstate := by
  unfold stlTicked; split <;> rfl

theorem execDecode_pstate {s t : State} (h : execDecode s = .next t) : t.pstate = s.pstate := by
  obtain ⟨-, hn⟩ | ⟨-, i, -, hf⟩ | ⟨-, ps, -, hn⟩ := execDecode_cases s
  · cases hn.symm.trans h
    simp
  · cases hf.symm.trans h
  · cases hn.symm.trans h
    simp

/-- The part of pulse state `q` moves PSTATE on the sample `q` waits for and on no other. -/
theorem pulseAct_pstate {q : PState} {s : State} (l : Level) (h : s.pstate = q) :
    (pulseAct q l s).pstate = (Claims.pulseMove q l).getD q := by
  cases q <;> cases l <;> simp [pulseAct, Claims.pulseMove, h]

theorem sampleOp_pstate (l : Level) (act : State → State) (s : State) :
    (sampleOp l act s).pstate = (act (s.idleDetect l).countSample).pstate := by
  simp [sampleOp]

/-- Settles O48, by the ways a step answers: each part of it keeps PSTATE but the clearing of a cycle
and the move of a sample. -/
theorem pulseStatesFollowTheirOrder : Obligations.PulseStatesFollowTheirOrder := by
  intro s t h
  obtain ⟨hr, rfl⟩ | ⟨hr, ⟨hp, rfl⟩ | ⟨hp, rfl⟩ | ⟨hp, rfl⟩ | ⟨hp, rfl⟩ | ⟨hp, hd⟩⟩ := step_cases h
  · simp [hr]
  · cases s.nextPins.start <;> simp [hr, hp]
  · cases s.nextPins.tick <;> simp [hr, hp]
  · cases s.nextPins.tick <;> simp [hr, hp]
  · cases s.nextPins.tick
    · simp [hr, hp]
    · simp [hr, hp, sampleOp_pstate, pulseAct_pstate]
  · simp [hr, hp, execDecode_pstate hd]

end Sys2Proof.Machine

/-! PROOFS. RDY and ERR: their three writers, and that no operation reads them (R28). -/

namespace Sys2Proof.Machine

/-- `s` with the two flags overwritten. -/
def State.withFlags (s : State) (e : ErrKind) (r : Bool) : State := { s with err := e, rdy := r }

/-! ### Operations that neither write nor read a flag -/

/-- `f` does the same whatever the flags are, and hands them on. -/
def FlagBlind (f : State → State) : Prop :=
  ∀ s e r, f (s.withFlags e r) = (f s).withFlags e r

/-- Overwriting the flags with themselves shows that `f` writes neither. -/
theorem FlagBlind.keeps_flags {f : State → State} (h : FlagBlind f) (s : State) :
    (f s).rdy = s.rdy ∧ (f s).err = s.err := by
  have hself : f s = (f s).withFlags s.err s.rdy := h s s.err s.rdy
  rw [hself]
  exact ⟨rfl, rfl⟩

theorem FlagBlind.skip : FlagBlind fun t => t := fun _ _ _ => rfl

theorem FlagBlind.comp {f g : State → State} (hf : FlagBlind f) (hg : FlagBlind g) :
    FlagBlind fun t => f (g t) := fun s e r => by
  simp only [hg s e r, hf (g s) e r]

theorem FlagBlind.ite {c : State → Prop} [DecidablePred c] {f g : State → State}
    (hc : ∀ s e r, c (s.withFlags e r) ↔ c s) (hf : FlagBlind f) (hg : FlagBlind g) :
    FlagBlind fun t => if c t then f t else g t := fun s e r => by
  simp only [hc]
  split
  · exact hf s e r
  · exact hg s e r

theorem flagBlind_moveTo (q : PState) : FlagBlind fun t => t.moveTo q := fun _ _ _ => rfl

theorem flagBlind_countSample : FlagBlind State.countSample := fun _ _ _ => rfl

theorem flagBlind_zeroCount : FlagBlind State.zeroCount := fun _ _ _ => rfl

theorem flagBlind_recordPeriod : FlagBlind State.recordPeriod := fun _ _ _ => rfl

theorem flagBlind_sthTicked : FlagBlind sthTicked :=
  .ite (fun _ _ _ => .rfl) (fun _ _ _ => rfl) (fun _ _ _ => rfl)

theorem flagBlind_stlTicked : FlagBlind stlTicked :=
  .ite (fun _ _ _ => .rfl) (fun _ _ _ => rfl) (fun _ _ _ => rfl)

theorem flagBlind_idleDetect (l : Level) : FlagBlind fun t => t.idleDetect l :=
  .ite (fun _ _ _ => .rfl) (fun _ _ _ => rfl) (fun _ _ _ => rfl)

theorem flagBlind_endOnIdle : FlagBlind State.endOnIdle :=
  .ite (fun _ _ _ => .rfl) (fun _ _ _ => rfl) (fun _ _ _ => rfl)

/-- The common parts of R71 add no access to a flag. -/
theorem FlagBlind.sampleOp {act : State → State} (h : FlagBlind act) (l : Level) :
    FlagBlind (sampleOp l act) :=
  flagBlind_endOnIdle.comp (h.comp (flagBlind_countSample.comp (flagBlind_idleDetect l)))

/-- The sixteen operations that are not writers of a flag. -/
theorem exec_flagBlind {i : Instr} (hd : i ≠ .decode) (hr : i ≠ .reset) (hs : i ≠ .idleStart) :
    ∃ f, FlagBlind f ∧ ∀ s, exec i s = .next (f s) := by
  cases i with
  | reset => exact absurd rfl hr
  | idleStart => exact absurd rfl hs
  | decode => exact absurd rfl hd
  | idleHold | sthHold | stlHold | acqHold => exact ⟨_, .skip, fun _ => rfl⟩
  | sthTick => exact ⟨_, flagBlind_sthTicked, fun _ => rfl⟩
  | stlTick => exact ⟨_, flagBlind_stlTicked, fun _ => rfl⟩
  | ipdH | dfpdH | dpdH => exact ⟨_, FlagBlind.skip.sampleOp .high, fun _ => rfl⟩
  | ipuL | dpuL => exact ⟨_, FlagBlind.skip.sampleOp .low, fun _ => rfl⟩
  | ipdL => exact ⟨_, (flagBlind_moveTo .initialPullUp).sampleOp .low, fun _ => rfl⟩
  | ipuH => exact ⟨_, (flagBlind_moveTo .dataFirstPullDown).sampleOp .high, fun _ => rfl⟩
  | dfpdL => exact ⟨_, (flagBlind_moveTo .dataPullUp).sampleOp .low, fun _ => rfl⟩
  | dpuH =>
    exact ⟨_, ((flagBlind_moveTo .dataPullDown).comp flagBlind_zeroCount).sampleOp .high,
      fun _ => rfl⟩
  | dpdL =>
    exact ⟨_, ((flagBlind_moveTo .dataPullUp).comp flagBlind_recordPeriod).sampleOp .low,
      fun _ => rfl⟩

/-! ### The three writers -/

/-- Reading P depends on P and PCOUNT alone. -/
theorem State.readPeriods_congr {s s' : State} (hc : s'.pcount = s.pcount)
    (hp : s'.periods = s.periods) (i n : Nat) : s'.readPeriods i n = s.readPeriods i n := by
  have hread (k : Nat) : s'.period? k = s.period? k := by simp only [State.period?, hc, hp]
  induction n generalizing i with
  | zero => rfl
  | succ n ih => simp only [State.readPeriods, hread, ih]

/-- DECODE overwrites both flags without reading either. -/
theorem execDecode_withFlags (s : State) (e : ErrKind) (r : Bool) :
    execDecode (s.withFlags e r) = execDecode s := by
  have hdeliver (f : Frame) : ((s.withFlags e r).deliver f).complete = (s.deliver f).complete := by
    unfold State.deliver
    split <;> rfl
  have hlen : lenchk (s.withFlags e r) = lenchk s := rfl
  have hraise : ((s.withFlags e r).raise .missingData).complete = (s.raise .missingData).complete := rfl
  have hread : (s.withFlags e r).readPeriods 0 Config.nBits = s.readPeriods 0 Config.nBits :=
    State.readPeriods_congr rfl rfl 0 _
  simp only [execDecode, hlen, hraise, hread, hdeliver]

/-- DECODE sets RDY and writes ERR with the first failing check. -/
theorem execDecode_flags {s t : State} (h : execDecode s = .next t) :
    t.rdy = true ∧
      t.err =
        if s.pcount.toNat ≠ 40 then .missingData else if csumOk t.frame then .noError else .crc := by
  obtain ⟨hc, hn⟩ | ⟨-, i, -, hf⟩ | ⟨hc, ps, -, hn⟩ := execDecode_cases s
  · cases hn.symm.trans h
    simp [hc, Failure.errKind]
  · cases hf.symm.trans h
  · cases hn.symm.trans h
    simp [hc]

/-- Every operation either overwrites both flags without reading them or is blind to them. -/
theorem exec_withFlags (i : Instr) :
    (∀ s e r, exec i (s.withFlags e r) = exec i s) ∨
      ∃ f, FlagBlind f ∧ ∀ s, exec i s = .next (f s) := by
  by_cases hd : i = .decode
  · subst hd
    exact .inl execDecode_withFlags
  by_cases hr : i = .reset
  · subst hr
    exact .inl fun _ _ _ => rfl
  by_cases hs : i = .idleStart
  · subst hs
    exact .inl fun _ _ _ => rfl
  exact .inr (exec_flagBlind hd hr hs)

/-- Settles O42: the three writers overwrite both flags, the other sixteen operations are blind to them. -/
theorem flagsAreWrittenByThreeOperationsAndReadByNone :
    Obligations.FlagsAreWrittenByThreeOperationsAndReadByNone := by
  refine ⟨fun i s t h => ⟨?decode, ?clear, ?others⟩, fun i s e r => ?unread⟩
  case decode =>
    rintro rfl
    exact execDecode_flags h
  case clear =>
    rintro (rfl | rfl) <;> cases h <;> simp
  case others =>
    intro hd hr hs
    obtain ⟨f, hf, hx⟩ := exec_flagBlind hd hr hs
    cases (hx s).symm.trans h
    exact hf.keeps_flags s
  case unread =>
    rw [show ({ s with err := e, rdy := r } : State) = s.withFlags e r from rfl]
    obtain hw | ⟨f, hf, hx⟩ := exec_withFlags i
    · rw [hw]
      exact ⟨fun t h => ⟨t, h, rfl⟩, fun _ h => h⟩
    · rw [hx, hx, hf]
      refine ⟨fun t h => ⟨_, rfl, ?_⟩, fun _ h => by cases h⟩
      cases h
      rfl

end Sys2Proof.Machine

/-! PROOFS. The number on `err` after DECODE (R44, R104). -/

namespace Sys2Proof.Machine

theorem csumOk_iff {f : Frame} : csumOk f = true ↔ csum f = byteOf f 4 := beq_iff_eq

/-- Settles O39: codes are injective and never reserved, and DECODE writes ERR with the first failing
check, so each of the three outcomes has a code of its own. -/
theorem errCodeTellsTheOutcome : Obligations.ErrCodeTellsTheOutcome := by
  refine ⟨fun s t h => ?outcome, fun s => ⟨rfl, rfl, s.err.code_ne_three⟩⟩
  case outcome =>
    obtain ⟨-, herr⟩ := execDecode_flags h
    have h1 : t.outputs.err = 1 ↔ t.err = .missingData := ErrKind.code_inj (e' := .missingData)
    have h2 : t.outputs.err = 2 ↔ t.err = .crc := ErrKind.code_inj (e' := .crc)
    have h0 : t.outputs.err = 0 ↔ t.err = .noError := ErrKind.code_inj (e' := .noError)
    rw [h1, h2, h0, herr]
    by_cases hc : s.pcount.toNat = 40
    · by_cases hk : csum t.frame = byteOf t.frame 4 <;> simp [hc, hk, csumOk_iff]
    · simp [hc]

end Sys2Proof.Machine

/-! PROOFS. The words of an operation: two columns of its row in the operation map (R49). -/

namespace Sys2Proof

/-- No two rows of R49 name one operation. -/
theorem opTable_op_inj : ∀ r ∈ opTable, ∀ r' ∈ opTable, r.op = r'.op → r = r' := by
  decide +kernel

/-- A decoded operation was read from a row that selects the word. -/
theorem exists_row_of_decode {w : DispatchWord} {i : Instr} (h : decode w = .ok i) :
    ∃ r ∈ opTable, r.op = i ∧ r.selects w = true := by
  unfold decode at h
  cases hf : opTable.find? (fun r => r.selects w) with
  | none =>
    rw [hf] at h
    cases h
  | some r =>
    rw [hf] at h
    cases h
    have hsel := List.find?_some hf
    exact ⟨r, List.mem_of_find?_eq_some hf, rfl, hsel⟩

/-- The words of an operation are those its row selects. -/
theorem hasPattern_of_mem {i : Instr} {m mask : DispatchWord} (hr : ⟨i, m, mask⟩ ∈ opTable) :
    Claims.hasPattern i m mask := by
  refine fun w => ⟨fun h => decode_of_selects hr (beq_iff_eq.2 h), fun h => ?_⟩
  obtain ⟨r, hmem, hop, hsel⟩ := exists_row_of_decode h
  cases opTable_op_inj r hmem _ hr hop
  exact beq_iff_eq.1 hsel

end Sys2Proof

/-! PROOFS. Runs of several clock edges: the inputs they consume, and an induction over them. -/

namespace Sys2Proof.Machine

/-- `s` after `k` edges that did nothing but consume their inputs. -/
def State.passEdges (s : State) (k : Nat) : State :=
  { s with pins := s.pins.drop k, edge := s.edge + k }

theorem State.passEdges_zero (s : State) : s.passEdges 0 = s := rfl

theorem State.clockEdge_passEdges (s : State) (k : Nat) :
    (s.passEdges k).clockEdge = s.passEdges (k + 1) := by
  simp [State.passEdges, State.clockEdge, Nat.add_assoc]

/-- The edges of a listed stretch of inputs leave the inputs after it. -/
theorem State.passEdges_length {s : State} {ps rest : List Pins} (h : s.pins = ps ++ rest) :
    s.passEdges ps.length = { s with pins := rest, edge := s.edge + ps.length } := by
  simp [State.passEdges, h]

/-- The next inputs once `k` of a listed stretch are consumed. -/
theorem State.nextPins_of_drop {s t : State} {ps rest : List Pins} {k : Nat}
    (hs : s.pins = ps ++ rest) (hk : k < ps.length) (ht : t.pins = s.pins.drop k) :
    t.nextPins = ps[k] := by
  apply State.nextPins_cons (ps := ps.drop (k + 1) ++ rest)
  rw [ht, hs, List.drop_append_of_le_length (Nat.le_of_lt hk), List.drop_eq_getElem_cons hk,
    List.cons_append]

/-- What holds at the start and is carried by each of `n` steps from `k` to `k + 1` holds after
them. -/
theorem core_run_induct {P : Nat → State → Prop} {n : Nat} {s : State} (h0 : P 0 s)
    (hstep : ∀ k < n, ∀ t, P k t → ∃ u, step t = .next u ∧ P (k + 1) u) :
    ∃ t, core.run n s = .next t ∧ P n t := by
  induction n with
  | zero => exact ⟨s, rfl, h0⟩
  | succ n ih =>
    obtain ⟨t, hrun, ht⟩ := ih fun k hk => hstep k (Nat.lt_succ_of_lt hk)
    obtain ⟨u, hu, hPu⟩ := hstep n (Nat.lt_succ_self n) t ht
    exact ⟨u, by rw [core_run_add n 1 s t hrun, core_run_next hu, core_run_zero], hPu⟩

end Sys2Proof.Machine

/-! PROOFS. Which inputs an edge looks at (R50, R63), and the edges that hold (R59, R61). -/

namespace Sys2Proof.Machine

/-- The selected row depends on the inputs that the phase looks at and on no other. -/
theorem select_congr {ph : Phase} {p q : Pins} (h : Claims.sameSeen ph p q) (ps : PState) :
    select p ph ps = select q ph ps := by
  obtain ⟨hrst, hseen⟩ := h
  cases hr : q.rst with
  | true => cases ph <;> simp only [select, hrst, hr, if_true]
  | false =>
    have hseen := hseen (hrst.trans hr)
    cases ph with
    | idle | startHigh | startLow => simp only [select, hrst, hseen]
    | decode => simp only [select, hrst]
    | acquire =>
      obtain ⟨htick, hdin⟩ := hseen
      cases ht : q.tick with
      | false => simp [select, hrst, htick, ht]
      | true => simp only [select, hrst, htick, hdin (htick.trans ht)]

/-- A step on listed inputs performs the row they select, on the state without them. -/
theorem step_withPins (s : State) (p : Pins) (rest : List Pins) :
    step (s.withPins (p :: rest)) =
      exec (select p s.phase s.pstate) { s with pins := rest, edge := s.edge + 1 } :=
  step_eq _

/-- Settles O8: both inputs select one row, and it runs on the state without them. -/
theorem unseenInputsHaveNoEffect : Obligations.UnseenInputsHaveNoEffect := by
  intro s p q rest h
  rw [step_withPins, step_withPins, select_congr h]

/-- An edge on which the phase holds only consumes its inputs. -/
theorem step_of_holds {s : State} (h : Claims.holds s.phase s.nextPins) :
    step s = .next s.clockEdge := by
  obtain ⟨hr, hq⟩ := h
  cases hp : s.phase <;> rw [hp] at hq
  case idle => simp [step_idle hp hr, hq]
  case startHigh => simp [step_startHigh hp hr, hq]
  case startLow => simp [step_startLow hp hr, hq]
  case acquire => simp [step_acquire hp hr, hq]
  case decode => exact hq.elim

/-- Settles O13, by induction on the edges: each of them leaves the phase, and so holds. -/
theorem quietEdgesChangeNothing : Obligations.QuietEdgesChangeNothing := by
  intro s ps rest hq hs
  have hstep : ∀ k < ps.length, ∀ t, t = s.passEdges k →
      ∃ u, step t = .next u ∧ u = s.passEdges (k + 1) := by
    rintro k hk _ rfl
    have hpin : (s.passEdges k).nextPins = ps[k] := State.nextPins_of_drop hs hk rfl
    refine ⟨_, step_of_holds ?_, s.clockEdge_passEdges k⟩
    rw [hpin]
    exact hq _ (List.getElem_mem hk)
  obtain ⟨t, hrun, rfl⟩ :=
    core_run_induct (P := fun k t => t = s.passEdges k) s.passEdges_zero.symm hstep
  rw [hrun, State.passEdges_length hs]

/-- Settles O12: the four arms answer their argument, and their words are those of their rows. -/
theorem holdOperationsChangeNothing : Obligations.HoldOperationsChangeNothing :=
  ⟨fun _ => ⟨rfl, rfl, rfl, rfl⟩, hasPattern_of_mem (by decide), hasPattern_of_mem (by decide),
    hasPattern_of_mem (by decide), hasPattern_of_mem (by decide)⟩

end Sys2Proof.Machine

/-! PROOFS. The two operations that clear the block: RESET (R58) and IDLE.START (R62). -/

namespace Sys2Proof.Machine

theorem exec_reset (s : State) : exec .reset s = .next (s.clear .idle) := rfl

theorem exec_idleStart (s : State) : exec .idleStart s = .next (s.clear .startHigh) := rfl

/-- Settles O9: RESET clears to IDLE, where the line is not driven. -/
theorem resetOperation : Obligations.ResetOperation := by
  refine fun s => ⟨rfl, hasPattern_of_mem (by decide), fun hr => ?priority, fun t h => ?released⟩
  case priority => rw [step_reset hr, exec_reset]
  case released =>
    cases (exec_reset s).symm.trans h
    rfl

/-- Settles O11: IDLE.START clears to START_HIGH, which drives the line HIGH. -/
theorem idleStartOperation : Obligations.IdleStartOperation := fun s =>
  ⟨s.clear .startHigh, exec_idleStart s, rfl, rfl, rfl, rfl, s.clear_period? .startHigh,
    hasPattern_of_mem (by decide)⟩

end Sys2Proof.Machine

/-! PROOFS. The two start phases: TIMER counts their ticks, and the last tick ends them (R65, R67). -/

namespace Sys2Proof.Machine

/-- What a tick does in a phase that TIMER measures: the tick on which TIMER stands one below `len`
does `finish`, every other increments TIMER. -/
def TimedPhase (ph : Phase) (len : Params → Nat) (finish : State → State) : Prop :=
  ∀ s : State, s.phase = ph → s.nextPins.rst = false → s.nextPins.tick = true →
    step s =
      .next
        (if s.timer.toNat + 1 = len s.params then finish s.clockEdge
        else { s.clockEdge with timer := s.timer + 1 })

/-- `s` after `k` ticks of a measured phase entered with TIMER = 0, none of them its last. -/
def State.tickEdges (s : State) (k : Nat) : State :=
  { s.passEdges k with timer := BitVec.ofNat 16 k }

/-- The end of START_HIGH (R65). -/
def State.endStartHigh (s : State) : State := { s with phase := .startLow, timer := 0 }

/-- The end of START_LOW (R67). -/
def State.endStartLow (s : State) : State := { s with phase := .acquire, timer := 0, pue := true }

theorem timedPhase_startHigh :
    TimedPhase .startHigh Params.startHighTicks State.endStartHigh := fun s hp hr ht => by
  rw [step_startHigh hp hr, ht]
  rfl

theorem timedPhase_startLow : TimedPhase .startLow Params.startLowTicks State.endStartLow :=
  fun s hp hr ht => by
    rw [step_startLow hp hr, ht]
    rfl

section
variable {ph : Phase} {len : Params → Nat} {finish : State → State} {s : State}
  {ps rest : List Pins} {k : Nat} (h : TimedPhase ph len finish) (hp : s.phase = ph)
  (hticks : AllTicks ps) (hpins : s.pins = ps ++ rest) (hbits : ps.length ≤ 2 ^ 16)
include h hp hticks hpins hbits

/-- One tick of a measured phase, `k` ticks after it was entered. -/
theorem TimedPhase.step_tickEdges (hk : k < ps.length) :
    step (s.tickEdges k) =
      .next (if k + 1 = len s.params then finish (s.tickEdges k).clockEdge
        else s.tickEdges (k + 1)) := by
  have hpin : (s.tickEdges k).nextPins = ps[k] := State.nextPins_of_drop hpins hk rfl
  obtain ⟨hr, ht⟩ := hticks _ (List.getElem_mem hk)
  have htimer : (s.tickEdges k).timer.toNat = k :=
    Nat.mod_eq_of_lt (Nat.lt_of_lt_of_le hk hbits)
  have hcount : { (s.tickEdges k).clockEdge with timer := (s.tickEdges k).timer + 1 } =
      s.tickEdges (k + 1) := by
    show { (s.passEdges k).clockEdge with timer := BitVec.ofNat 16 k + 1 } = _
    rw [s.clockEdge_passEdges, State.tickEdges, BitVec.ofNat_add]
    rfl
  rw [h (s.tickEdges k) hp (hpin ▸ hr) (hpin ▸ ht), htimer, hcount]
  rfl

/-- Until its last tick a measured phase only counts. -/
theorem TimedPhase.run_lt (h0 : s.timer = 0) (hlen : ps.length = len s.params)
    (hk : k < ps.length) :
    core.run k s = .next (s.tickEdges k) := by
  have hzero : s = s.tickEdges 0 := by
    show s = { s with timer := 0 }
    rw [← h0]
  have hstep : ∀ j < k, ∀ t, t = s.tickEdges j →
      ∃ u, step t = .next u ∧ u = s.tickEdges (j + 1) := by
    rintro j hj _ rfl
    refine ⟨_, h.step_tickEdges hp hticks hpins hbits (hj.trans hk), if_neg ?_⟩
    omega
  obtain ⟨t, hrun, rfl⟩ := core_run_induct (P := fun j t => t = s.tickEdges j) hzero hstep
  exact hrun

/-- A measured phase entered with TIMER = 0 ends with its `len`-th tick. -/
theorem TimedPhase.run_length (h0 : s.timer = 0) (hlen : ps.length = len s.params)
    (hpos : 1 ≤ ps.length) :
    core.run ps.length s =
      .next (finish
        { s with
          timer := BitVec.ofNat 16 (ps.length - 1), pins := rest, edge := s.edge + ps.length }) := by
  obtain ⟨k, hk⟩ : ∃ k, ps.length = k + 1 := ⟨ps.length - 1, by omega⟩
  have hlt : k < ps.length := by omega
  have hrun := h.run_lt hp hticks hpins hbits h0 hlen hlt
  have hstep := h.step_tickEdges hp hticks hpins hbits hlt
  rw [if_pos (hk ▸ hlen)] at hstep
  have hend : (s.tickEdges k).clockEdge =
      { s.passEdges ps.length with timer := BitVec.ofNat 16 k } := by
    rw [hk, ← s.clockEdge_passEdges]
    rfl
  rw [State.passEdges_length hpins] at hend
  rw [hk, core_run_add k 1 s _ hrun, core_run_next hstep, core_run_zero, hend, hk]
  rfl

end

theorem exec_sthTick (s : State) : exec .sthTick s = .next (sthTicked s) := rfl

theorem exec_stlTick (s : State) : exec .stlTick s = .next (stlTicked s) := rfl

/-- Settles O14: START_HIGH is a measured phase of START_HIGH_TICKS ticks. -/
theorem startHighTick : Obligations.StartHighTick := by
  refine ⟨hasPattern_of_mem (by decide), fun s hn => ?tick,
    fun s ps rest hwf hp h0 hticks hlen hpins => ?run⟩
  case tick =>
    have hlast : s.timer.toNat + 1 = s.params.startHighTicks ↔
        s.timer.toNat = s.params.startHighTicks - 1 := by omega
    simp only [exec_sthTick, sthTicked, hlast]
  case run =>
    obtain ⟨-, -, ⟨hpos, hbits⟩, -⟩ := hwf
    rw [← hlen] at hpos hbits
    exact ⟨timedPhase_startHigh.run_length hp hticks hpins hbits h0 hlen hpos, fun k hk =>
      ⟨_, timedPhase_startHigh.run_lt hp hticks hpins hbits h0 hlen hk, hp⟩⟩

/-- Settles O15: START_LOW is a measured phase of START_LOW_TICKS ticks. -/
theorem startLowTick : Obligations.StartLowTick := by
  refine ⟨hasPattern_of_mem (by decide), fun s hn => ?tick,
    fun s ps rest hwf hp h0 hticks hlen hpins => ?run⟩
  case tick =>
    have hlast : s.timer.toNat + 1 = s.params.startLowTicks ↔
        s.timer.toNat = s.params.startLowTicks - 1 := by omega
    simp only [exec_stlTick, stlTicked, hlast]
  case run =>
    obtain ⟨-, -, -, hpos, hbits⟩ := hwf
    rw [← hlen] at hpos hbits
    exact ⟨timedPhase_startLow.run_length hp hticks hpins hbits h0 hlen hpos, fun k hk =>
      ⟨_, timedPhase_startLow.run_lt hp hticks hpins hbits h0 hlen hk, hp⟩⟩

end Sys2Proof.Machine

/-! PROOFS. What the ten sample operations share (R68, R69, R75), and a run of equal samples. -/

namespace Sys2Proof.Machine

/-- Every sample operation is the common effect of R71 around the part of one pulse state; DPU.H is
the part that state 4 has for HIGH. -/
theorem exec_of_sampleLevel {i : Instr} {l : Level} (h : sampleLevel i = some l) :
    ∃ q, (∀ s, exec i s = .next (sampleOp l (pulseAct q l) s)) ∧
      (i = .dpuH ↔ q = .dataPullUp ∧ l = .high) := by
  cases i with
  | ipdL | ipdH => cases h; exact ⟨.initialPullDown, fun _ => rfl, by decide⟩
  | ipuL | ipuH => cases h; exact ⟨.initialPullUp, fun _ => rfl, by decide⟩
  | dfpdL | dfpdH => cases h; exact ⟨.dataFirstPullDown, fun _ => rfl, by decide⟩
  | dpuL | dpuH => cases h; exact ⟨.dataPullUp, fun _ => rfl, by decide⟩
  | dpdL | dpdH => cases h; exact ⟨.dataPullDown, fun _ => rfl, by decide⟩
  | reset | idleHold | idleStart | sthHold | sthTick | stlHold | stlTick | acqHold | decode => cases h

/-- CNT is incremented by every sample operation, and zeroed after that by DPU.H (R75, R83). -/
theorem sampleOp_pulse_cnt (q : PState) (l : Level) (s : State) :
    (sampleOp l (pulseAct q l) s).cnt =
      if q = .dataPullUp ∧ l = .high then 0 else s.cnt + 1 := by
  cases q <;> cases l <;> simp [pulseAct, sampleOp]

/-- A tick of ACQUIRE takes one sample. -/
theorem step_sample {s : State} (hp : s.phase = .acquire) (hr : s.nextPins.rst = false)
    (ht : s.nextPins.tick = true) :
    ∃ t, step s = .next t ∧ t.unch = idleAfter s.nextPins.din s ∧ t.last = s.nextPins.din ∧
      t.lastv = true ∧ t.phase = phaseAfter s.nextPins.din s ∧ t.params = s.params ∧
      t.pins = s.pins.tail := by
  obtain ⟨⟨hphase, hunch, hlast, hlastv⟩, ⟨-, -, hparams, hpins, -⟩, -⟩ :=
    sampleOp_pulse s.pstate s.nextPins.din s.clockEdge
  exact ⟨_, by rw [step_acquire hp hr, ht, if_pos rfl], hunch, hlast, hlastv, hphase, hparams, hpins⟩

/-- A sample of the level of the last one finds the line unchanged. -/
theorem idleAfter_same {l : Level} {s : State} (hv : s.lastv = true) (hl : s.last = l) :
    idleAfter l s = s.unch + 1 := by
  simp [idleAfter, hv, hl]

/-- `k` samples of a run of level `l`, begun in ACQUIRE in state `s`, are taken: one more would make
UNCH `k`. -/
structure InRun (l : Level) (s : State) (k : Nat) (t : State) : Prop where
  phase : t.phase = .acquire
  idle : (idleAfter l t).toNat = k
  params : t.params = s.params
  pins : t.pins = s.pins.drop k

section
variable {l : Level} {s : State} {ps rest : List Pins} {k : Nat} (hpins : s.pins = ps ++ rest)
  (hticks : AllTicks ps) (hdin : ∀ p ∈ ps, p.din = l) (hk : k < ps.length)
include hpins hticks hdin hk

/-- A sample of the run that the idle detector lets pass. -/
theorem InRun.step {t : State} (h : InRun l s k t) :
    ∃ u, step t = .next u ∧ u.unch.toNat = k ∧
      (u.phase = if k = s.params.idleBound then .decode else .acquire) ∧
      (k < s.params.idleBound → s.params.idleBound < 2 ^ 7 → InRun l s (k + 1) u) := by
  have hpin : t.nextPins = ps[k] := State.nextPins_of_drop hpins hk h.pins
  have hmem : ps[k] ∈ ps := List.getElem_mem hk
  obtain ⟨hr, ht⟩ := hticks _ hmem
  obtain ⟨u, hu, hunch, hlast, hlastv, hphase, hparams, htail⟩ :=
    step_sample h.phase (hpin ▸ hr) (hpin ▸ ht)
  rw [hpin, hdin _ hmem] at hunch hlast hphase
  have hn : u.unch.toNat = k := by rw [hunch, h.idle]
  rw [phaseAfter, h.idle, h.params, h.phase] at hphase
  refine ⟨u, hu, hn, hphase, fun hlt hbound => ⟨?_, ?_, hparams.trans h.params, ?_⟩⟩
  · rw [hphase, if_neg (Nat.ne_of_lt hlt)]
  · rw [idleAfter_same hlastv hlast, BitVec.toNat_add, hn]
    exact Nat.mod_eq_of_lt (show k + 1 < 2 ^ 7 by omega)
  · rw [htail, h.pins, List.tail_drop]

/-- After `k` samples of a run, none of which ends acquisition. -/
theorem InRun.run (hp : s.phase = .acquire) (hstart : s.lastv = false ∨ l ≠ s.last)
    (hbound : s.params.idleBound < 2 ^ 7) (hle : k ≤ s.params.idleBound) :
    ∃ t, core.run k s = .next t ∧ InRun l s k t := by
  have h0 : InRun l s 0 s := ⟨hp, by rw [idleAfter, if_pos hstart]; rfl, rfl, rfl⟩
  refine core_run_induct h0 fun j hj t ht => ?_
  obtain ⟨u, hu, -, -, hnext⟩ := InRun.step hpins hticks hdin (hj.trans hk) ht
  exact ⟨u, hu, hnext (by omega) hbound⟩

end

/-- Settles O18: a run of `k + 1` samples is `k` that pass the idle detector and one whose UNCH is
`k`. -/
theorem sampleOperationsShareTheIdleDetector : Obligations.SampleOperationsShareTheIdleDetector := by
  refine ⟨fun i l s hl => ?shared,
    fun s ps rest l hwf hp hstart hticks hdin hpos hle hpins => ?run⟩
  case shared =>
    obtain ⟨q, hexec, hdpuH⟩ := exec_of_sampleLevel hl
    obtain ⟨⟨hphase, hunch, hlast, hlastv⟩, -, -⟩ := sampleOp_pulse q l s
    refine ⟨_, hexec s, hunch, hlast, hlastv, ?_, fun hi => ?_⟩
    · rw [hphase, hunch, phaseAfter]
    · rw [sampleOp_pulse_cnt, if_neg (mt hdpuH.2 hi)]
  case run =>
    obtain ⟨⟨-, hbound⟩, -⟩ := hwf
    obtain ⟨k, hk⟩ : ∃ k, ps.length = k + 1 := ⟨ps.length - 1, by omega⟩
    have hlt : k < ps.length := by omega
    obtain ⟨t, hrun, ht⟩ := InRun.run hpins hticks hdin hlt hp hstart hbound (by omega)
    obtain ⟨u, hu, hunch, hphase, -⟩ := InRun.step hpins hticks hdin hlt ht
    refine ⟨u, ?_, by omega, ?_⟩
    · rw [hk, core_run_add k 1 s t hrun, core_run_next hu, core_run_zero]
    · rw [hphase, hk]
      by_cases hend : k = s.params.idleBound <;> simp [hend]

end Sys2Proof.Machine

/-! PROOFS. What each sample operation answers: the closing LOW sample, which records a period (R84),
and the nine that record none (R76 to R83, R85). -/

namespace Sys2Proof.Machine

/-- The entry that recording a period fills. -/
theorem State.recordPeriod_read_pcount {s : State} (h : s.pcount.toNat < Config.nBits) :
    s.recordPeriod.periods.read s.pcount.toNat = some s.cnt := by
  rw [State.recordPeriod_periods, if_pos h, Memory.read_write_same]

/-- The entries that recording a period leaves: all of them once P is full. -/
theorem State.recordPeriod_read_other {s : State} {a : Nat}
    (h : ¬(s.pcount.toNat < Config.nBits ∧ a = s.pcount.toNat)) :
    s.recordPeriod.periods.read a = s.periods.read a := by
  rw [State.recordPeriod_periods]
  split
  case isTrue hlt => exact Memory.read_write_other _ _ _ _ fun ha => h ⟨hlt, ha⟩
  case isFalse => rfl

/-- DPD.L is the common effect of a sample, the record of the incremented CNT, and the move to
state 4. -/
theorem exec_dpdL (s : State) :
    exec .dpdL s =
      .next
        { sampled .low s with
          pstate := .dataPullUp
          periods := s.countSample.recordPeriod.periods
          pcount := s.countSample.recordPeriod.pcount } := by
  simp only [exec_sample, sampleOp_record]
  rfl

/-- Settles O22: P and PCOUNT are those that recording a period leaves, and PCOUNT's entry is the only
one it fills. -/
theorem closingLowSampleRecordsThePeriod : Obligations.ClosingLowSampleRecordsThePeriod :=
  ⟨hasPattern_of_mem (by decide), fun s => ⟨_, exec_dpdL s,
    State.recordPeriod_read_pcount (s := s.countSample),
    fun _ => State.recordPeriod_read_other (s := s.countSample),
    s.countSample.recordPeriod_pcount, rfl⟩⟩

/-- Settles O19: the five operations have no part of their own. -/
theorem skippedSamplesOnlyCount : Obligations.SkippedSamplesOnlyCount :=
  ⟨fun s => by simp only [exec_sample, sampleOp_skip, and_self],
    hasPattern_of_mem (by decide), hasPattern_of_mem (by decide), hasPattern_of_mem (by decide),
    hasPattern_of_mem (by decide), hasPattern_of_mem (by decide)⟩

/-- Settles O20: the part of each of the three operations is a move of PSTATE. -/
theorem preambleSamplesAdvance : Obligations.PreambleSamplesAdvance :=
  ⟨fun s => by simp only [exec_sample, sampleOp_move, and_self],
    hasPattern_of_mem (by decide), hasPattern_of_mem (by decide), hasPattern_of_mem (by decide)⟩

/-- Settles O21: CNT is zeroed after the common effect has incremented it. -/
theorem firstHighSampleRestartsTheCounter : Obligations.FirstHighSampleRestartsTheCounter :=
  ⟨fun s => by simp only [exec_sample, sampleOp_zero], hasPattern_of_mem (by decide)⟩

end Sys2Proof.Machine

/-! PROOFS. DECODE (spec/42_decoder.md): what it answers in each case of its two checks, and on what
that depends (R90, R91, R99). -/

namespace Sys2Proof.Machine

theorem exec_decode (s : State) : exec .decode s = execDecode s := rfl

/-! ### The three answers -/

/-- LENCHK fails: P is not read (R91). -/
theorem execDecode_of_ne {s : State} (hc : s.pcount.toNat ≠ Config.nBits) :
    execDecode s = .next (s.raise .missingData).complete := by
  simp [execDecode, lenchk, hc]

theorem execDecode_of_error {s : State} {i : Nat} (hc : s.pcount.toNat = Config.nBits)
    (hr : s.readPeriods 0 Config.nBits = .error i) :
    execDecode s = .fault (.unwrittenPeriod i) := by
  simp [execDecode, lenchk, hc, hr]

theorem execDecode_of_ok {s : State} {ps : List Period} (hc : s.pcount.toNat = Config.nBits)
    (hr : s.readPeriods 0 Config.nBits = .ok ps) :
    execDecode s = .next (s.deliver (packBits (sliceAll ps))).complete := by
  simp [execDecode, lenchk, hc, hr]

/-- Settles O27: LENCHK alone answers where it fails, and ERR names MISSING_DATA only there. -/
theorem wrongPeriodCountIsMissingData : Obligations.WrongPeriodCountIsMissingData := by
  refine ⟨fun s hc => execDecode_of_ne hc, fun s t h hc => ?forty⟩
  case forty =>
    obtain ⟨-, herr⟩ := execDecode_flags h
    rw [herr, if_neg (not_not_intro hc)]
    split <;> decide

/-! ### What the answer depends on -/

/-- Reading entries of P depends on what each of them is read as. -/
theorem State.readPeriods_congr_period? {s s' : State} {i n : Nat}
    (h : ∀ k, i ≤ k → k < i + n → s'.period? k = s.period? k) :
    s'.readPeriods i n = s.readPeriods i n := by
  induction n generalizing i with
  | zero => rfl
  | succ n ih =>
    have hrest : s'.readPeriods (i + 1) n = s.readPeriods (i + 1) n :=
      ih fun k hk hlt => h k (by omega) (by omega)
    simp only [State.readPeriods, h i (Nat.le_refl i) (by omega), hrest]

/-- `t` and `t'` show the same result (R55). -/
def SameResult (t t' : State) : Prop :=
  t'.err = t.err ∧ t'.hum = t.hum ∧ t'.temp = t.temp ∧ t'.frame = t.frame ∧ t'.rdy = t.rdy

section
variable {s s' : State} (h : ResultCleared s) (h' : ResultCleared s')
include h h'

theorem sameResult_missingData :
    SameResult (s.raise .missingData).complete (s'.raise .missingData).complete := by
  obtain ⟨-, hhum, htemp, hframe⟩ := h
  obtain ⟨-, hhum', htemp', hframe'⟩ := h'
  simp [SameResult, hhum, htemp, hframe, hhum', htemp', hframe']

theorem sameResult_deliver (f : Frame) : SameResult (s.deliver f).complete (s'.deliver f).complete := by
  obtain ⟨-, hhum, htemp, -⟩ := h
  obtain ⟨-, hhum', htemp', -⟩ := h'
  simp [SameResult, hhum, htemp, hhum', htemp']

end

/-- Settles O35: both states read the same periods, so both take the same of the three cases. -/
theorem resultDependsOnThePeriodsAlone : Obligations.ResultDependsOnThePeriodsAlone := by
  intro s s' hcount hperiods hs hs'
  have hread : s'.readPeriods 0 Config.nBits = s.readPeriods 0 Config.nBits :=
    State.readPeriods_congr_period? fun k _ hk => (hperiods k (by omega)).symm
  rw [exec_decode, exec_decode]
  obtain ⟨hc, hx⟩ | ⟨hc, i, hr, hx⟩ | ⟨hc, ps, hr, hx⟩ := execDecode_cases s
  · rw [hx, execDecode_of_ne (hcount ▸ hc)]
    refine ⟨fun t ht => ?_, nofun⟩
    cases ht
    exact ⟨_, rfl, sameResult_missingData hs hs'⟩
  · rw [hx, execDecode_of_error (hcount ▸ hc) (hread.trans hr)]
    exact ⟨nofun, fun _ hf => hf⟩
  · rw [hx, execDecode_of_ok (hcount ▸ hc) (hread.trans hr)]
    refine ⟨fun t ht => ?_, nofun⟩
    cases ht
    exact ⟨_, rfl, sameResult_deliver hs hs' _⟩

end Sys2Proof.Machine

/-! PROOFS. The threshold and the bits it decides (R92 to R95), and the checksum of the packed frame
(R96, R97). -/

namespace Sys2Proof.Machine

/-! ### The threshold -/

/-- CW + 1 bits hold the sum of any two periods. -/
theorem thresh_toNat (lo hi : Period) : (thresh lo hi).toNat = lo.toNat + hi.toNat := by
  have hlo := lo.isLt
  have hhi := hi.isLt
  unfold thresh
  bv_omega

theorem slice_thresh_iff {lo hi p : Period} :
    slice (thresh lo hi) p = true ↔ lo.toNat + hi.toNat < 2 * p.toNat := by
  rw [slice_thresh, decide_eq_true_iff]

/-- The exact midpoint of `a` and `b` is below `c` when the doubled comparison says so. -/
theorem midpoint_lt_iff (a b c : Nat) : (a : ℚ) + ((b : ℚ) - a) / 2 < c ↔ a + b < 2 * c := by
  have hmid : (a : ℚ) + ((b : ℚ) - a) / 2 = (a + b) / 2 := by ring
  rw [hmid, div_lt_iff₀' two_pos]
  exact_mod_cast Iff.rfl

/-- Settles O32: all three comparisons are the doubled one on integers. Rounding up fails on V31's
extremes, 3 and 8, whose midpoint 5.5 is below the period 6. -/
theorem thresholdIsTheRationalMidpoint : Obligations.ThresholdIsTheRationalMidpoint := by
  refine ⟨fun lo hi p => ⟨thresh_toNat lo hi, ?exact, fun hle => ?truncated⟩, 3, 8, 6, ?rounded⟩
  case exact => rw [slice_thresh_iff, midpoint_lt_iff]
  case truncated =>
    have hle : lo.toNat ≤ hi.toNat := hle
    rw [slice_thresh_iff]
    omega
  case rounded => decide

/-! ### The frame of forty recorded periods -/

/-- The recorded periods, first one first. -/
def recordedPeriods (p : Nat → Period) : List Period := (List.range Config.nBits).map p

/-- The frame they are cut into and packed into. -/
def recordedFrame (p : Nat → Period) : Frame := packBits (sliceAll (recordedPeriods p))

theorem mem_recordedPeriods {p : Nat → Period} {q : Period} :
    q ∈ recordedPeriods p ↔ ∃ i < 40, p i = q := by
  simp [recordedPeriods]

theorem recordedPeriods_ne_nil (p : Nat → Period) : recordedPeriods p ≠ [] :=
  List.ne_nil_of_mem (mem_recordedPeriods.2 ⟨0, by decide, rfl⟩)

theorem sliceAll_recordedPeriods (p : Nat → Period) {i : Nat} (hi : i < 40) :
    (sliceAll (recordedPeriods p)).getD i false =
      slice (thresh (shortest (recordedPeriods p)) (longest (recordedPeriods p))) (p i) := by
  rw [sliceAll]
  simp [recordedPeriods, hi]

/-- The `i`-th bit from the left is the decision for the `i`-th period. -/
theorem recordedFrame_getLsbD (p : Nat → Period) {i : Nat} (hi : i < 40) :
    (recordedFrame p).getLsbD (39 - i) =
      decide ((shortest (recordedPeriods p)).toNat + (longest (recordedPeriods p)).toNat <
        2 * (p i).toNat) := by
  have hlen : (sliceAll (recordedPeriods p)).length = 40 := by simp [sliceAll, recordedPeriods]
  have hbit : (recordedFrame p).getLsbD (39 - i) = bitOf (recordedFrame p) i := by
    simp [bitOf, BitVec.getMsbD, hi]
  rw [hbit, recordedFrame, bitOf_packBits hlen, sliceAll_recordedPeriods p hi, slice_thresh]

/-- In an invariant state every recorded period lies in 1..IDLE_BOUND (R87). -/
theorem Inv.period_bounds {s : State} (hinv : Inv s) {i : Nat} {v : Period}
    (hi : i < s.pcount.toNat) (hmax : i < Config.nBits) (hv : s.periods.read i = some v) :
    1 ≤ v.toNat ∧ v.toNat ≤ s.params.idleBound := by
  obtain ⟨-, hrec⟩ := hinv.recorded
  obtain ⟨w, hw, hbounds⟩ := hrec i (lt_min hi hmax)
  cases hw.symm.trans ((State.period?_of_lt hi).trans hv)
  exact hbounds

section
variable {s : State} {p : Nat → Period} (hc : s.pcount.toNat = 40)
  (hp : ∀ i < 40, s.periods.read i = some (p i))
include hc hp

theorem exec_decode_recorded : exec .decode s = .next (s.deliver (recordedFrame p)).complete :=
  execDecode_of_ok hc (State.readPeriods_all hc hp)

theorem Inv.recordedPeriods_bounds (hinv : Inv s) {q : Period} (hq : q ∈ recordedPeriods p) :
    1 ≤ q.toNat ∧ q.toNat ≤ s.params.idleBound := by
  obtain ⟨i, hi, rfl⟩ := mem_recordedPeriods.1 hq
  exact hinv.period_bounds (hc ▸ hi) hi (hp i hi)

end

/-- Settles O28: `shortest` and `longest` are the least and the greatest of the recorded periods, and
each bit is cut against their sum. -/
theorem periodsAreSlicedAgainstOneThreshold : Obligations.PeriodsAreSlicedAgainstOneThreshold := by
  intro s p hc hp
  have hne := recordedPeriods_ne_nil p
  have hmem (i : Nat) (hi : i < 40) : p i ∈ recordedPeriods p := mem_recordedPeriods.2 ⟨i, hi, rfl⟩
  have hattained {q : Period} (hq : q ∈ recordedPeriods p) : ∃ i < 40, (p i).toNat = q.toNat :=
    (mem_recordedPeriods.1 hq).imp fun _ ⟨hi, he⟩ => ⟨hi, congrArg _ he⟩
  refine ⟨_, exec_decode_recorded hc hp, (shortest (recordedPeriods p)).toNat,
    (longest (recordedPeriods p)).toNat, hattained (shortest_mem hne), fun i hi => shortest_le (hmem i hi),
    hattained (longest_mem hne), fun i hi => le_longest (hmem i hi), fun hinv => ⟨?low, ?high⟩,
    fun i hi => ?bit⟩
  case low => exact (hinv.recordedPeriods_bounds hc hp (shortest_mem hne)).1
  case high => exact (hinv.recordedPeriods_bounds hc hp (longest_mem hne)).2
  case bit =>
    rw [State.complete_frame, State.deliver_frame]
    exact recordedFrame_getLsbD p hi

/-! ### The checksum -/

/-- CSUM's verdict on integers (R96). -/
theorem csumOk_iff_mod {f : Frame} :
    csumOk f = true ↔
      ((byteOf f 0).toNat + (byteOf f 1).toNat + (byteOf f 2).toNat + (byteOf f 3).toNat) % 256 =
        (byteOf f 4).toNat := by
  rw [csumOk_iff, ← BitVec.toNat_inj, csum, BitVec.toNat_ofNat]

/-- Settles O29: DECODE delivers the frame, with the fields that CSUM's verdict on it selects. -/
theorem checksumDecidesTheResult : Obligations.ChecksumDecidesTheResult := by
  intro s p hc hp
  refine ⟨_, exec_decode_recorded hc hp, rfl, rfl, ?_⟩
  rw [State.complete_frame, State.deliver_frame]
  refine ⟨fun h => ?accepted, fun h => ?rejected⟩
  case accepted =>
    have hok : csumOk (recordedFrame p) = true := csumOk_iff_mod.2 h
    simp [hok, byteOf]
  case rejected =>
    have hbad : ¬csumOk (recordedFrame p) = true := mt csumOk_iff_mod.1 h
    simp [hbad]

end Sys2Proof.Machine

/-! PROOFS. The dispatch word field by field, the encoder against the decoder (R47, R49), and which words
are reserved (R51). -/

namespace Sys2Proof

/-! ### The fields of a word -/

theorem Level.bit_iff (l : Level) : l.bit = true ↔ l = .high := by cases l <;> decide

section
variable (r s t d : Bool) (ph q : BitVec 3)

theorem packWord_rst : (packWord r s t d ph q).getLsbD 9 = r := by
  simp only [packWord, BitVec.getLsbD_append]
  simp

theorem packWord_start : (packWord r s t d ph q).getLsbD 8 = s := by
  simp only [packWord, BitVec.getLsbD_append]
  simp

theorem packWord_tick : (packWord r s t d ph q).getLsbD 7 = t := by
  simp only [packWord, BitVec.getLsbD_append]
  simp

theorem packWord_din : (packWord r s t d ph q).getLsbD 6 = d := by
  simp only [packWord, BitVec.getLsbD_append]
  simp

@[simp] theorem wordPhase_packWord : wordPhase (packWord r s t d ph q) = ph := by
  simp (disch := omega) only [wordPhase, packWord, BitVec.extractLsb'_append_eq_of_le,
    Nat.reduceSub, BitVec.extractLsb'_append_eq_right]

@[simp] theorem wordPState_packWord : wordPState (packWord r s t d ph q) = q :=
  BitVec.extractLsb'_append_eq_right

@[simp] theorem wordPins_packWord :
    wordPins (packWord r s t d ph q) = ⟨r, s, t, Level.ofBit d⟩ := by
  simp only [wordPins, packWord_rst, packWord_start, packWord_tick, packWord_din]

end

/-! ### The encoder against the decoder -/

/-- The bits of a word that rows may ignore, as the encoder takes them. -/
def wordIgnored (w : DispatchWord) : IgnoredBits :=
  ⟨w.getLsbD 8, w.getLsbD 7, w.getLsbD 6, wordPhase w, wordPState w⟩

/-- A row fixes in its pattern column the bits that its match and mask columns fix. -/
theorem encode_wordIgnored :
    ∀ w : DispatchWord, ∀ r ∈ opTable, r.selects w = true → encode r.op (wordIgnored w) = w := by
  decide +kernel

/-- The family `RowOfWord`, for an operation not known by name. -/
theorem rowOfWord (i : Instr) : Laws.RowOfWord.Statement i := by
  cases i with
  | reset => exact Laws.RowOfWord.reset
  | idleHold => exact Laws.RowOfWord.idleHold
  | idleStart => exact Laws.RowOfWord.idleStart
  | sthHold => exact Laws.RowOfWord.sthHold
  | sthTick => exact Laws.RowOfWord.sthTick
  | stlHold => exact Laws.RowOfWord.stlHold
  | stlTick => exact Laws.RowOfWord.stlTick
  | acqHold => exact Laws.RowOfWord.acqHold
  | ipdL => exact Laws.RowOfWord.ipdL
  | ipdH => exact Laws.RowOfWord.ipdH
  | ipuL => exact Laws.RowOfWord.ipuL
  | ipuH => exact Laws.RowOfWord.ipuH
  | dfpdL => exact Laws.RowOfWord.dfpdL
  | dfpdH => exact Laws.RowOfWord.dfpdH
  | dpuL => exact Laws.RowOfWord.dpuL
  | dpuH => exact Laws.RowOfWord.dpuH
  | dpdL => exact Laws.RowOfWord.dpdL
  | dpdH => exact Laws.RowOfWord.dpdH
  | decode => exact Laws.RowOfWord.decode

theorem decode_encode (i : Instr) (g : IgnoredBits) : decode (encode i g) = .ok i := by
  obtain ⟨r, hr, rfl, hsel⟩ := rowOfWord i g
  exact decode_of_selects hr hsel

theorem exists_encode_of_decode {w : DispatchWord} {i : Instr} (h : decode w = .ok i) :
    ∃ g, encode i g = w := by
  obtain ⟨r, hr, rfl, hsel⟩ := exists_row_of_decode h
  exact ⟨wordIgnored w, encode_wordIgnored w r hr hsel⟩

/-- Settles O1: a row selects the words of its pattern, and a selected word is the pattern with the
word's own ignored bits. -/
theorem decodeOfEncodeIsTheOperation : Obligations.DecodeOfEncodeIsTheOperation :=
  ⟨decode_encode, fun _ _ => exists_encode_of_decode⟩

/-! ### Reserved words -/

/-- Without `rst`, no row selects a word whose PHASE code is above 4 (R51 a). -/
theorem no_row_of_reservedByPhase {w : DispatchWord} (h : Claims.reservedByPhase w) :
    ∀ r ∈ opTable, ¬r.selects w = true :=
  have hall : ∀ w : DispatchWord, w.getLsbD 9 = false ∧ 5 ≤ wordPhase w →
      ∀ r ∈ opTable, ¬r.selects w = true := by decide +kernel
  hall w h

/-- At a tick of ACQUIRE, no row selects a word whose PSTATE code is none of 1 to 5 (R51 b). -/
theorem no_row_of_reservedByPState {w : DispatchWord} (h : Claims.reservedByPState w) :
    ∀ r ∈ opTable, ¬r.selects w = true :=
  have hall : ∀ w : DispatchWord, w.getLsbD 9 = false ∧ wordPhase w = 3 ∧ w.getLsbD 7 = true ∧
      (wordPState w = 0 ∨ 6 ≤ wordPState w) → ∀ r ∈ opTable, ¬r.selects w = true := by
    decide +kernel
  hall w h

/-- Every other word is selected by some row (R50). -/
theorem exists_row_of_not_reserved {w : DispatchWord} (ha : ¬Claims.reservedByPhase w)
    (hb : ¬Claims.reservedByPState w) : ∃ r ∈ opTable, r.selects w = true :=
  have hall : ∀ w : DispatchWord, ¬(w.getLsbD 9 = false ∧ 5 ≤ wordPhase w) →
      ¬(w.getLsbD 9 = false ∧ wordPhase w = 3 ∧ w.getLsbD 7 = true ∧
        (wordPState w = 0 ∨ 6 ≤ wordPState w)) → ∃ r ∈ opTable, r.selects w = true := by
    decide +kernel
  hall w ha hb

/-- A word that no row selects is rejected, by the clause its PHASE field tells. -/
theorem decode_of_no_row {w : DispatchWord} (h : ∀ r ∈ opTable, ¬r.selects w = true) :
    decode w = .error (if wordPhase w = Phase.acquire.code then .reservedPState else .reservedPhase) := by
  rw [decode, List.find?_eq_none.2 h]

/-- At most one row selects a word (R50). -/
theorem row_unique {w : DispatchWord} {r r' : OpRow} (hr : r ∈ opTable) (hr' : r' ∈ opTable)
    (h : r.selects w = true) (h' : r'.selects w = true) : r' = r := by
  by_contra hne
  exact opTable_rows_differ r' hr' r hr hne (OpRow.agree h' h)

/-- Settles O2: a reserved word has no row, and every other word has exactly one. -/
theorem everyWordIsReservedOrSelectsOneRow : Obligations.EveryWordIsReservedOrSelectsOneRow := by
  refine fun w => ⟨fun ha => ?phase, fun hb => ?pstate, fun ha hb => ?row⟩
  case phase =>
    have hcode : wordPhase w ≠ Phase.acquire.code := fun heq => absurd (heq ▸ ha.2) (by decide)
    rw [decode_of_no_row (no_row_of_reservedByPhase ha), if_neg hcode]
  case pstate =>
    have hcode : wordPhase w = Phase.acquire.code := hb.2.1
    rw [decode_of_no_row (no_row_of_reservedByPState hb), if_pos hcode]
  case row =>
    obtain ⟨r, hr, hsel⟩ := exists_row_of_not_reserved ha hb
    exact ⟨r, hr, hsel, decode_of_selects hr hsel, fun r' hr' => row_unique hr hr' hsel⟩

/-- Settles O3, by looking each word up in the operation map. -/
theorem writtenWordsDecode : Obligations.WrittenWordsDecode := by
  refine ⟨?_, ?_, ?_, ?_, ?_, ?_, ?_, ?_, ?_, ?_, ?_⟩ <;> rfl

end Sys2Proof

/-! PROOFS. Which operation an edge performs: by the state it starts in (R49, R50), and after a word is
placed (log entry 3). -/

namespace Sys2Proof.Machine

/-- Settles O4: the fields of the dispatch word are the inputs and the codes it is packed from. -/
theorem stepRunsTheDecodedOperation : Obligations.StepRunsTheDecodedOperation := by
  refine fun s => ⟨fun i hi => ?runs, ⟨packWord_rst .., packWord_start .., packWord_tick .., ?din,
    wordPhase_packWord .., wordPState_packWord ..⟩, rfl, fun _ _ => State.nextPins_cons⟩
  case runs => rw [step, hi]
  case din =>
    rw [← Level.bit_iff]
    exact Bool.eq_iff_iff.1 (packWord_din ..)


theorem step_of_select {s : State} {i : Instr} (h : select s.nextPins s.phase s.pstate = i) :
    step s = exec i s.clockEdge := by
  rw [step_eq, h]

/-- The row of a tick of ACQUIRE, by its pulse state and its sample (rows 9 to 18 of R49). -/
theorem step_sample_row {s : State} {q : PState} {l : Level} {i : Instr} (hp : s.phase = .acquire)
    (hr : s.nextPins.rst = false) (ht : s.nextPins.tick = true) (hq : s.pstate = q)
    (hl : s.nextPins.din = l) (hi : select (samplePins l) .acquire q = i) :
    step s = exec i s.clockEdge := by
  refine step_of_select (Eq.trans ?_ hi)
  simp only [select, hp, hr, ht, hq, hl, samplePins]

/-- Settles O5, phase by phase. -/
theorem eachRowIsPerformedWhenSelected : Obligations.EachRowIsPerformedWhenSelected := by
  refine fun s => ⟨fun hr => ?reset, fun hr => ⟨fun hp => ?idle, fun hp => ?startHigh,
    fun hp => ?startLow, fun hp => ⟨fun ht => ?hold, fun ht => ?sample⟩, fun hp => ?decode⟩⟩
  case reset => exact step_reset hr
  case idle =>
    exact ⟨fun hs => step_of_select (by simp [select, hp, hr, hs]),
      fun hs => step_of_select (by simp [select, hp, hr, hs])⟩
  case startHigh =>
    exact ⟨fun ht => step_of_select (by simp [select, hp, hr, ht]),
      fun ht => step_of_select (by simp [select, hp, hr, ht])⟩
  case startLow =>
    exact ⟨fun ht => step_of_select (by simp [select, hp, hr, ht]),
      fun ht => step_of_select (by simp [select, hp, hr, ht])⟩
  case hold => exact step_of_select (by simp [select, hp, hr, ht])
  case sample =>
    have hrow {q : PState} {l : Level} {i : Instr} (hi : select (samplePins l) .acquire q = i)
        (hq : s.pstate = q) (hl : s.nextPins.din = l) : step s = exec i s.clockEdge :=
      step_sample_row hp hr ht hq hl hi
    exact ⟨fun hq => ⟨hrow rfl hq, hrow rfl hq⟩, fun hq => ⟨hrow rfl hq, hrow rfl hq⟩,
      fun hq => ⟨hrow rfl hq, hrow rfl hq⟩, fun hq => ⟨hrow rfl hq, hrow rfl hq⟩,
      fun hq => ⟨hrow rfl hq, hrow rfl hq⟩⟩
  case decode => exact step_decode hp hr

/-- DECODE alone can stop, and it stops with a fault. -/
theorem exec_ne_refused (i : Instr) (s : State) (r : Refusal) : exec i s ≠ .refused r := by
  cases i with
  | decode =>
    obtain ⟨-, hx⟩ | ⟨-, i, -, hx⟩ | ⟨-, ps, -, hx⟩ := execDecode_cases s <;>
      rw [exec_decode, hx] <;> nofun
  | _ => nofun

/-- Settles O6: a word formed from a state is decoded, and no operation is refused. -/
theorem noStateFormsAReservedWord : Obligations.NoStateFormsAReservedWord := fun s r => by
  rw [step_eq]
  exact exec_ne_refused _ _ _

/-! ### A placed word -/

/-- A word that the host's decoder reads fits in 10 bits and is read by the decoder of R50. -/
theorem decode_of_decodeTableWord {nbits w : Nat} {i : Instr} (h : decodeTableWord nbits w = some i) :
    decode (BitVec.ofNat 10 (w % 2 ^ nbits)) = .ok i := by
  unfold decodeTableWord decodeBits at h
  split at h
  · cases hd : decode (BitVec.ofNat 10 (w % 2 ^ nbits)) with
    | ok j =>
      rw [hd] at h
      cases h
      rfl
    | error e =>
      rw [hd] at h
      cases h
  · cases h

/-- The inputs and the legal codes of a word written for `i` select `i`; a field with a reserved code
is one that the row of `i` ignores. -/
theorem select_encode (i : Instr) (g : IgnoredBits) (ph : Phase) (q : PState) :
    select (wordPins (encode i g)) ((Phase.ofCode (wordPhase (encode i g))).getD ph)
      ((PState.ofCode (wordPState (encode i g))).getD q) = i := by
  cases i with
  | reset => simp only [encode, wordPins_packWord]; unfold select; split <;> rfl
  | _ => simp only [encode, wordPins_packWord, wordPhase_packWord, wordPState_packWord]; rfl

/-- Settles O7: a word that decodes to `i` was written for `i`. -/
theorem placedWordIsRunNext : Obligations.PlacedWordIsRunNext := by
  intro s nbits w i h
  obtain ⟨g, hg⟩ := exists_encode_of_decode (decode_of_decodeTableWord h)
  refine step_of_select ?_
  have hsel := select_encode i g s.phase s.pstate
  rw [hg] at hsel
  exact hsel

end Sys2Proof.Machine

/-! PROOFS. Every clock edge keeps the invariant: one lemma for each way a step answers (spec/10_state.md
sections 2 to 4, 41_pulse_fsm.md section 3). -/

namespace Sys2Proof.Machine

/-! ### Edges that take no sample -/

theorem Inv.clockEdge {s : State} (h : Inv s) : Inv s.clockEdge where
  params := h.params
  memory := h.memory
  recorded := h.recorded
  timer := h.timer
  idle := h.idle
  fresh := h.fresh
  pulse := h.pulse
  result := h.result
  line := h.line

/-- Legal parameters and P in canonical form are all that the start of a fresh cycle needs. -/
theorem Inv.of_clear {s : State} {ph : Phase} (hparams : s.params.wf) (hmem : Memory.wf s.periods)
    (hph : ph = .idle ∨ ph = .startHigh) : Inv (s.clear ph) where
  params := hparams
  memory := hmem
  recorded := ⟨Nat.zero_le _, fun i hi => by simp at hi⟩
  timer := by
    obtain ⟨-, -, ⟨hpos, -⟩, -⟩ := hparams
    obtain rfl | rfl := hph
    · rfl
    · exact hpos
  idle := by
    refine ⟨Nat.zero_le _, ?_, ?_⟩ <;> obtain rfl | rfl := hph <;> nofun
  fresh := ⟨fun _ => ⟨rfl, rfl, rfl, rfl, rfl⟩, fun _ => rfl⟩
  pulse := nofun
  result := ⟨nofun, fun _ => ⟨rfl, rfl, rfl, rfl⟩⟩
  line := by obtain rfl | rfl := hph <;> simp [LineInv]

/-- Outside IDLE no result is shown (R22). -/
theorem Inv.rdy_of_ne_idle {s : State} (h : Inv s) (hp : s.phase ≠ .idle) : s.rdy = false := by
  cases hr : s.rdy with
  | false => rfl
  | true => exact absurd (h.result.1 hr).1 hp

theorem Inv.resultCleared {s : State} (h : Inv s) (hp : s.phase ≠ .idle) : ResultCleared s :=
  h.result.2 (h.rdy_of_ne_idle hp)

/-- A tick that TIMER counts, below the length of its phase. -/
theorem toNat_timer_succ {n : Timer} {len : Nat} (hlt : n.toNat < len) (hne : n.toNat + 1 ≠ len)
    (hbits : len ≤ 2 ^ 16) : (n + 1).toNat < len := by
  have hsucc : n.toNat + 1 < 2 ^ 16 := by omega
  rw [BitVec.toNat_add]
  exact Nat.lt_of_le_of_lt (Nat.mod_le _ _) (show n.toNat + 1 < len by omega)

section
variable {s : State} (h : Inv s)
include h

theorem Inv.rdy_of_start (hs : s.phase = .startHigh ∨ s.phase = .startLow) : s.rdy = false :=
  h.rdy_of_ne_idle fun hi => by simp [hi] at hs

/-- From a start phase to itself or to a later phase before DECODE: no sample is taken yet. -/
theorem Inv.advance {ph : Phase} {n : Timer} {p : Bool}
    (hs : s.phase = .startHigh ∨ s.phase = .startLow) (hd : ph ≠ .idle ∧ ph ≠ .decode)
    (hpue : p = true ↔ ph = .acquire) (ht : TimerInv { s with phase := ph, timer := n, pue := p }) :
    Inv { s with phase := ph, timer := n, pue := p } := by
  have hv : s.lastv = false := h.fresh.2 hs
  have hr := h.rdy_of_start hs
  obtain ⟨-, hunch, -⟩ := h.fresh.1 hv
  exact
    { params := h.params
      memory := h.memory
      recorded := h.recorded
      timer := ht
      idle := ⟨h.idle.1, fun _ => by rw [hunch]; exact h.params.1.1,
        fun hph => absurd hph hd.2⟩
      fresh := ⟨h.fresh.1, fun _ => hv⟩
      pulse := h.pulse
      result := ⟨fun hrdy => by simp [hr] at hrdy, h.result.2⟩
      line := by simp [LineInv, hr, hd, hpue] }

/-- In the start phases the pull-up is off (R57). -/
theorem Inv.pue_of_start (hs : s.phase = .startHigh ∨ s.phase = .startLow) : s.pue = false := by
  have hr := h.rdy_of_start hs
  have hline := h.line
  obtain hs | hs := hs <;> simpa [LineInv, hs, hr] using hline

theorem Inv.sthTicked (hp : s.phase = .startHigh) : Inv (sthTicked s) := by
  have hpue := h.pue_of_start (.inl hp)
  obtain ⟨-, -, ⟨-, hbits⟩, ⟨hpos, -⟩⟩ := h.params
  have htimer : s.timer.toNat < s.params.startHighTicks := by simpa [TimerInv, hp] using h.timer
  unfold Machine.sthTicked
  split
  case isTrue hlast => exact h.advance (.inl hp) (by simp) (by simp [hpue]) hpos
  case isFalse hlast =>
    refine h.advance (.inl hp) (by simp [hp]) (by simp [hp, hpue]) ?_
    simpa [TimerInv, hp] using toNat_timer_succ htimer hlast hbits

theorem Inv.stlTicked (hp : s.phase = .startLow) : Inv (stlTicked s) := by
  have hpue := h.pue_of_start (.inr hp)
  obtain ⟨-, -, -, -, hbits⟩ := h.params
  have htimer : s.timer.toNat < s.params.startLowTicks := by simpa [TimerInv, hp] using h.timer
  unfold Machine.stlTicked
  split
  case isTrue hlast => exact h.advance (.inr hp) (by simp) (by simp) rfl
  case isFalse hlast =>
    refine h.advance (.inr hp) (by simp [hp]) (by simp [hp, hpue]) ?_
    simpa [TimerInv, hp] using toNat_timer_succ htimer hlast hbits

end

/-! ### What a sample does to the counters -/

/-- UNCH restarts, or it was below its bound and counts as an integer. -/
theorem idleAfter_cases (l : Level) {s : State} (hlt : s.unch.toNat < s.params.idleBound)
    (hbits : s.params.idleBound < 2 ^ 7) :
    ((s.lastv = false ∨ l ≠ s.last) ∧ (idleAfter l s).toNat = 0) ∨
      (s.lastv = true ∧ s.last = l ∧ (idleAfter l s).toNat = s.unch.toNat + 1) := by
  by_cases hnew : s.lastv = false ∨ l ≠ s.last
  · exact .inl ⟨hnew, by rw [idleAfter, if_pos hnew]; rfl⟩
  · have hv : s.lastv = true := by simpa using fun hf => hnew (.inl hf)
    have hl : s.last = l := by_contra fun hne => hnew (.inr fun he => hne he.symm)
    refine .inr ⟨hv, hl, ?_⟩
    rw [idleAfter_same hv hl, BitVec.toNat_add]
    exact Nat.mod_eq_of_lt (show s.unch.toNat + 1 < 2 ^ 7 by omega)

theorem Inv.idleAfter_cases {s : State} (h : Inv s) (hp : s.phase = .acquire) (l : Level) :
    ((s.lastv = false ∨ l ≠ s.last) ∧ (idleAfter l s).toNat = 0) ∨
      (s.lastv = true ∧ s.last = l ∧ (idleAfter l s).toNat = s.unch.toNat + 1) :=
  Machine.idleAfter_cases l (h.idle.2.1 hp) h.params.1.2

/-- CNT against the length of the current run, whatever the pulse state (R87). -/
theorem Inv.cnt_le_unch {s : State} (h : Inv s) :
    s.cnt.toNat ≤ 3 * s.params.idleBound + s.unch.toNat + 1 := by
  cases hv : s.lastv with
  | false =>
    obtain ⟨-, -, hcnt, -⟩ := h.fresh.1 hv
    simp [hcnt]
  | true =>
    have hpulse := h.pulse hv
    cases hq : s.pstate <;> simp only [hq] at hpulse <;> omega

/-- A sample of ACQUIRE cannot wrap CNT (R87). -/
theorem Inv.cnt_succ {s : State} (h : Inv s) (hp : s.phase = .acquire) :
    (s.cnt + 1).toNat = s.cnt.toNat + 1 := by
  have hcnt := h.cnt_le_unch
  have hunch := h.idle.2.1 hp
  have hbits := h.params.2.1
  rw [BitVec.toNat_add]
  exact Nat.mod_eq_of_lt (show s.cnt.toNat + 1 < 2 ^ 16 by omega)

/-- PCOUNT changes at the closing LOW sample of a HIGH run, and at no other. -/
theorem sampleOp_pulse_pcount (q : PState) (l : Level) (s : State) :
    (sampleOp l (pulseAct q l) s).pcount =
      if q = .dataPullDown ∧ l = .low then s.countSample.recordPeriod.pcount else s.pcount := by
  cases q <;> cases l <;>
    simp only [pulseAct, sampleOp_skip, sampleOp_move, sampleOp_zero, sampleOp_record] <;> rfl

/-- P changes at the closing LOW sample of a HIGH run, and at no other. -/
theorem sampleOp_pulse_periods (q : PState) (l : Level) (s : State) :
    (sampleOp l (pulseAct q l) s).periods =
      if q = .dataPullDown ∧ l = .low then s.countSample.recordPeriod.periods else s.periods := by
  cases q <;> cases l <;>
    simp only [pulseAct, sampleOp_skip, sampleOp_move, sampleOp_zero, sampleOp_record] <;> rfl

theorem sampleOp_pulse_pstate {q : PState} {s : State} (l : Level) (hq : s.pstate = q) :
    (sampleOp l (pulseAct q l) s).pstate = (Claims.pulseMove q l).getD q := by
  rw [sampleOp_pstate]
  exact pulseAct_pstate l (by simpa using hq)

/-! ### The recorded periods -/

/-- PCOUNT counts up to 41 and stays there. -/
theorem State.recordPeriod_pcount_toNat {s : State} (h : s.pcount.toNat ≤ 41) :
    s.recordPeriod.pcount.toNat = min (s.pcount.toNat + 1) 41 := by
  rw [State.recordPeriod_pcount]
  split
  case isTrue hlt =>
    rw [BitVec.toNat_add, min_eq_left hlt]
    exact Nat.mod_eq_of_lt (show s.pcount.toNat + 1 < 2 ^ 6 by omega)
  case isFalse hge =>
    have hge : ¬s.pcount.toNat < 41 := hge
    omega

/-- What each entry of P is read as after a period is recorded. -/
theorem State.recordPeriod_period? {s : State} (h : s.pcount.toNat ≤ 41) {i : Nat} (hi : i < 40) :
    s.recordPeriod.period? i = if i = s.pcount.toNat then some s.cnt else s.period? i := by
  have hcount := s.recordPeriod_pcount_toNat h
  split
  case isTrue heq =>
    subst heq
    rw [State.period?_of_lt (by omega), State.recordPeriod_read_pcount hi]
  case isFalse hne =>
    obtain hlt | hgt := Nat.lt_or_gt_of_ne hne
    · rw [State.period?_of_lt (by omega), State.period?_of_lt hlt,
        State.recordPeriod_read_other fun ha => hne ha.2]
    · rw [State.period?_of_ge (by omega), State.period?_of_ge (by omega)]

/-- Recording a period within 1..IDLE_BOUND keeps all recorded periods there. -/
theorem RecordedInv.recordPeriod {s : State} (h : RecordedInv s) (hlo : 1 ≤ s.cnt.toNat)
    (hhi : s.cnt.toNat ≤ s.params.idleBound) : RecordedInv s.recordPeriod := by
  obtain ⟨hmax, hrec⟩ := h
  have hcount := s.recordPeriod_pcount_toNat hmax
  refine ⟨hcount ▸ min_le_right _ _, fun i hi => ?_⟩
  obtain ⟨hlt, hbits⟩ := lt_min_iff.1 hi
  rw [State.recordPeriod_period? hmax hbits]
  split
  case isTrue => exact ⟨s.cnt, rfl, hlo, hhi⟩
  case isFalse hne => exact hrec i (lt_min (by omega) hbits)

/-- The recorded periods are PCOUNT and P, within the parameters. -/
theorem RecordedInv.congr {s t : State} (h : RecordedInv s) (hcount : t.pcount = s.pcount)
    (hperiods : t.periods = s.periods) (hparams : t.params = s.params) : RecordedInv t := by
  simpa only [RecordedInv, State.period?, hcount, hperiods, hparams] using h

/-! ### A sample of ACQUIRE -/

theorem Inv.memory_sample {s : State} (h : Inv s) (l : Level) :
    Memory.wf (sampleOp l (pulseAct s.pstate l) s).periods := by
  rw [sampleOp_pulse_periods]
  split
  · exact State.recordPeriod_wf (s := s.countSample) h.memory
  · exact h.memory

section
variable {s : State} (h : Inv s) (hp : s.phase = .acquire) (l : Level)
include h hp

theorem Inv.recorded_sample : RecordedInv (sampleOp l (pulseAct s.pstate l) s) := by
  obtain ⟨-, ⟨-, -, hparams, -⟩, -⟩ := sampleOp_pulse s.pstate l s
  have hcount := sampleOp_pulse_pcount s.pstate l s
  have hperiods := sampleOp_pulse_periods s.pstate l s
  by_cases hrec : s.pstate = .dataPullDown ∧ l = .low
  · rw [if_pos hrec] at hcount hperiods
    refine RecordedInv.congr (s := s.countSample.recordPeriod) ?_ hcount hperiods hparams
    have hv : s.lastv = true := by
      by_contra hv
      obtain ⟨-, -, -, -, hq⟩ := h.fresh.1 (by simpa using hv)
      simp [hrec.1] at hq
    have hpulse := h.pulse hv
    simp only [hrec.1] at hpulse
    have hcnt := h.cnt_succ hp
    have hunch := h.idle.2.1 hp
    refine RecordedInv.recordPeriod (s := s.countSample) h.recorded ?_ ?_
    · show 1 ≤ (s.cnt + 1).toNat
      omega
    · show (s.cnt + 1).toNat ≤ s.params.idleBound
      omega
  · rw [if_neg hrec] at hcount hperiods
    exact h.recorded.congr hcount hperiods hparams

theorem Inv.idle_sample : IdleInv (sampleOp l (pulseAct s.pstate l) s) := by
  obtain ⟨⟨hphase, hunch, -, -⟩, ⟨-, -, hparams, -⟩, -⟩ := sampleOp_pulse s.pstate l s
  have hlt := h.idle.2.1 hp
  have hle : (idleAfter l s).toNat ≤ s.params.idleBound := by
    obtain ⟨-, hi⟩ | ⟨-, -, hi⟩ := h.idleAfter_cases hp l <;> omega
  unfold IdleInv
  rw [hphase, hunch, hparams, phaseAfter, hp]
  split
  case isTrue heq => exact ⟨hle, nofun, fun _ => heq⟩
  case isFalse hne => exact ⟨hle, fun _ => lt_of_le_of_ne hle hne, nofun⟩

omit hp in
/-- The first sample of a cycle. -/
theorem Inv.pulse_first_sample (hv : s.lastv = false) :
    PulseInv (sampleOp l (pulseAct s.pstate l) s) := by
  obtain ⟨⟨-, hunch, hlast, -⟩, ⟨-, -, hparams, -⟩, -⟩ := sampleOp_pulse s.pstate l s
  obtain ⟨-, -, hcnt, hcount, hq⟩ := h.fresh.1 hv
  have hidle : idleAfter l s = 0 := if_pos (.inl hv)
  intro _
  rw [hq] at hunch hlast hparams ⊢
  rw [sampleOp_pulse_pstate l hq, sampleOp_pulse_pcount, sampleOp_pulse_cnt, hunch, hlast, hparams,
    hidle, hcnt]
  cases l
  case low => exact ⟨rfl, hcount, Nat.le_add_left 1 (s.params.idleBound + 0)⟩
  case high => exact ⟨rfl, hcount, rfl⟩

/-- A later sample: CNT and the run grow together, or a run ends and its length, at most IDLE_BOUND,
moves into the bound of the next pulse state. -/
theorem Inv.pulse_later_sample (hv : s.lastv = true) :
    PulseInv (sampleOp l (pulseAct s.pstate l) s) := by
  obtain ⟨⟨-, hunch, hlast, -⟩, ⟨-, -, hparams, -⟩, -⟩ := sampleOp_pulse s.pstate l s
  have hsucc := h.cnt_succ hp
  have hlt := h.idle.2.1 hp
  have hpulse := h.pulse hv
  have hidle : (idleAfter l s).toNat = if l = s.last then s.unch.toNat + 1 else 0 := by
    obtain ⟨hnew, hi⟩ | ⟨-, rfl, hi⟩ := h.idleAfter_cases hp l
    · rw [hi, if_neg (hnew.resolve_left (by simp [hv]))]
    · rw [hi, if_pos rfl]
  intro _
  rw [sampleOp_pulse_pstate l rfl, sampleOp_pulse_pcount, sampleOp_pulse_cnt, hunch, hlast, hparams,
    hidle]
  cases hq : s.pstate <;> simp only [hq] at hpulse
  case initialPullDown | initialPullUp | dataFirstPullDown =>
    obtain ⟨hl, hcount, hcnt⟩ := hpulse
    cases l <;> simp [Claims.pulseMove, hl, hcount] <;> omega
  case dataPullUp | dataPullDown =>
    obtain ⟨hl, hcnt⟩ := hpulse
    cases l <;> simp [Claims.pulseMove, hl] <;> omega

/-- A sample of ACQUIRE keeps the invariant. -/
theorem Inv.sample : Inv (sampleOp l (pulseAct s.pstate l) s) := by
  obtain ⟨⟨hphase, -, -, hlastv⟩, ⟨htimer, hpue, hparams, -⟩, hframe, herr, hrdy, hhum, htemp⟩ :=
    sampleOp_pulse s.pstate l s
  have hnew : (sampleOp l (pulseAct s.pstate l) s).phase = .acquire ∨
      (sampleOp l (pulseAct s.pstate l) s).phase = .decode := by
    rw [hphase, phaseAfter, hp]
    split <;> simp
  have hr : s.rdy = false := h.rdy_of_ne_idle (by simp [hp])
  exact
    { params := hparams ▸ h.params
      memory := h.memory_sample l
      recorded := h.recorded_sample hp l
      timer := by
        have ht : s.timer = 0 := by simpa [TimerInv, hp] using h.timer
        unfold TimerInv
        obtain hn | hn := hnew <;> simp only [hn, htimer, ht]
      idle := h.idle_sample hp l
      fresh := ⟨by simp [hlastv], fun hph => by obtain hn | hn := hnew <;> simp [hn] at hph⟩
      pulse := by
        cases hv : s.lastv with
        | false => exact h.pulse_first_sample l hv
        | true => exact h.pulse_later_sample hp l hv
      result := ⟨by simp [hrdy, hr], fun _ => by
        simpa only [ResultCleared, herr, hhum, htemp, hframe] using h.result.2 hr⟩
      line := by
        have hpue' : s.pue = true := h.line.2 (.inl hp)
        unfold LineInv
        rw [hpue, hpue']
        obtain hn | hn := hnew <;> simp [hn] }

end

/-! ### DECODE -/

/-- The registers DECODE writes (R90). -/
theorem execDecode_writes {s t : State} (h : execDecode s = .next t) :
    t = { s with phase := .idle, rdy := true, frame := t.frame, err := t.err, hum := t.hum
                 temp := t.temp } := by
  obtain ⟨-, hn⟩ | ⟨-, i, -, hf⟩ | ⟨-, ps, -, hn⟩ := execDecode_cases s
  · cases hn.symm.trans h
    rfl
  · cases hf.symm.trans h
  · cases hn.symm.trans h
    unfold State.deliver
    split <;> rfl

/-- DECODE delivers one of the three shapes from cleared result registers (R55). -/
theorem resultShape_of_execDecode {s t : State} (hs : ResultCleared s) (h : execDecode s = .next t) :
    ResultShape t := by
  obtain ⟨-, hhum, htemp, hframe⟩ := hs
  obtain ⟨-, hn⟩ | ⟨-, i, -, hf⟩ | ⟨-, ps, -, hn⟩ := execDecode_cases s
  · cases hn.symm.trans h
    exact .inr (.inr ⟨rfl, hhum, htemp, hframe⟩)
  · cases hf.symm.trans h
  · cases hn.symm.trans h
    by_cases hok : csumOk (packBits (sliceAll ps)) = true
    · refine .inl ?_
      simp [hok, (csumOk_iff.1 hok).symm]
    · refine .inr (.inl ?_)
      simp [hok, hhum, htemp, mt (fun he => csumOk_iff.2 (Eq.symm he)) hok]

theorem Inv.execDecode {s t : State} (h : Inv s) (hp : s.phase = .decode)
    (hx : execDecode s = .next t) : Inv t := by
  have hshape : ResultShape t := resultShape_of_execDecode (h.resultCleared (by simp [hp])) hx
  have hpue : s.pue = true := h.line.2 (.inr (.inl hp))
  rw [execDecode_writes hx] at hshape ⊢
  exact
    { params := h.params
      memory := h.memory
      recorded := h.recorded
      timer := by simpa [TimerInv, hp] using h.timer
      idle := ⟨h.idle.1, nofun, nofun⟩
      fresh := ⟨h.fresh.1, by simp⟩
      pulse := h.pulse
      result := ⟨fun _ => ⟨rfl, hshape⟩, nofun⟩
      line := by simp [LineInv, hpue] }

/-! ### Every edge -/

/-- Settles O44, by the ways a step answers. -/
theorem everyStepKeepsTheInvariant : Obligations.EveryStepKeepsTheInvariant := by
  intro s t h hstep
  have hc := h.clockEdge
  obtain ⟨-, rfl⟩ | ⟨-, ⟨hp, rfl⟩ | ⟨hp, rfl⟩ | ⟨hp, rfl⟩ | ⟨hp, rfl⟩ | ⟨hp, hx⟩⟩ := step_cases hstep
  · exact Inv.of_clear hc.params hc.memory (.inl rfl)
  · split
    · exact Inv.of_clear hc.params hc.memory (.inr rfl)
    · exact hc
  · split
    · exact hc.sthTicked hp
    · exact hc
  · split
    · exact hc.stlTicked hp
    · exact hc
  · split
    · exact hc.sample hp _
    · exact hc
  · exact hc.execDecode hp hx

end Sys2Proof.Machine

/-! PROOFS. What the invariant gives: the line outputs (R57), no fault (R34), the bound of CNT (R87); and
what every step does to PHASE and to the parameters (R11, R30). -/

namespace Sys2Proof.Machine

/-- Settles O43: nothing is recorded, every counter is 0 and the result is cleared. -/
theorem invariantHoldsAtReset : Obligations.InvariantHoldsAtReset :=
  Inv.of_clear (s := State.reset) (ph := .idle) (by decide) Memory.wf_nil (.inl rfl)

/-- Settles O41: the driven level follows the phase alone, the pull-up by the invariant. -/
theorem lineOutputsByPhase : Obligations.LineOutputsByPhase := by
  intro s h
  refine ⟨fun hp => ?startHigh, fun hp => ?startLow, fun hp => ?released, fun hp => ?idle⟩
  case startHigh =>
    exact ⟨by simp [State.lineOe, hp], by simp [State.lineOut, hp], h.pue_of_start (.inl hp)⟩
  case startLow =>
    exact ⟨by simp [State.lineOe, hp], by simp [State.lineOut, hp], h.pue_of_start (.inr hp)⟩
  case released =>
    have hpue : s.pue = true := h.line.2 (hp.imp_right .inl)
    obtain hp | hp := hp <;> exact ⟨by simp [State.lineOe, hp], by simp [State.lineOut, hp], hpue⟩
  case idle =>
    have hpue : s.pue = true ↔ s.rdy = true := by simpa [LineInv, hp] using h.line
    exact ⟨by simp [State.lineOe, hp], by simp [State.lineOut, hp], Bool.eq_iff_iff.2 hpue⟩

/-! ### No stop -/

/-- With every entry below PCOUNT recorded, DECODE reads no unwritten entry (R34). -/
theorem Inv.exists_execDecode {s : State} (h : Inv s) :
    ∃ t, Machine.execDecode s = .next t := by
  obtain ⟨-, hx⟩ | ⟨hc, i, hr, -⟩ | ⟨-, ps, -, hx⟩ := execDecode_cases s
  · exact ⟨_, hx⟩
  · obtain ⟨⟨-, hlt⟩, hnone, -⟩ := State.readPeriods_error hr
    rw [Nat.zero_add] at hlt
    obtain ⟨v, hv, -⟩ := h.recorded.2 i (lt_min (hc ▸ hlt) hlt)
    cases hnone.symm.trans hv
  · exact ⟨_, hx⟩

/-- Settles O45: DECODE is the only operation that can stop. -/
theorem noFaultFromAnInvariantState : Obligations.NoFaultFromAnInvariantState := by
  intro s h
  cases hr : s.nextPins.rst with
  | true => exact ⟨_, step_reset hr⟩
  | false =>
    cases hp : s.phase with
    | idle => exact ⟨_, step_idle hp hr⟩
    | startHigh => exact ⟨_, step_startHigh hp hr⟩
    | startLow => exact ⟨_, step_startLow hp hr⟩
    | acquire => exact ⟨_, step_acquire hp hr⟩
    | decode =>
      rw [step_decode hp hr]
      exact h.clockEdge.exists_execDecode

/-! ### PHASE and the parameters -/

theorem sthTicked_phase (s : State) :
    (sthTicked s).phase = s.phase ∨ (sthTicked s).phase = .startLow := by
  unfold sthTicked
  split
  · exact .inr rfl
  · exact .inl rfl

theorem stlTicked_phase (s : State) :
    (stlTicked s).phase = s.phase ∨ (stlTicked s).phase = .acquire := by
  unfold stlTicked
  split
  · exact .inr rfl
  · exact .inl rfl

theorem phaseAfter_cases (l : Level) (s : State) :
    phaseAfter l s = s.phase ∨ phaseAfter l s = .decode := by
  unfold phaseAfter
  split
  · exact .inr rfl
  · exact .inl rfl

/-- Settles O47: an edge that does not hold moves PHASE as its operation does. -/
theorem phasesFollowTheirOrder : Obligations.PhasesFollowTheirOrder := by
  intro s t h
  obtain ⟨hr, rfl⟩ | ⟨hr, hcases⟩ := step_cases h
  · exact ⟨fun _ => rfl, by simp [hr]⟩
  refine ⟨by simp [hr], fun _ => ?_⟩
  obtain ⟨hp, rfl⟩ | ⟨hp, rfl⟩ | ⟨hp, rfl⟩ | ⟨hp, rfl⟩ | ⟨hp, hx⟩ := hcases
  · rw [hp]
    split
    · exact .inr rfl
    · exact .inl hp
  · split
    · simpa [hp, Claims.followingPhase] using sthTicked_phase s.clockEdge
    · exact .inl rfl
  · split
    · simpa [hp, Claims.followingPhase] using stlTicked_phase s.clockEdge
    · exact .inl rfl
  · split
    · obtain ⟨⟨hphase, -⟩, -⟩ := sampleOp_pulse s.pstate s.nextPins.din s.clockEdge
      rw [hphase]
      simpa [hp, Claims.followingPhase] using phaseAfter_cases s.nextPins.din s.clockEdge
    · exact .inl rfl
  · rw [execDecode_writes hx, hp]
    exact .inr rfl

@[simp] theorem sthTicked_params (s : State) : (sthTicked s).params = s.params := by
  unfold sthTicked; split <;> rfl

@[simp] theorem stlTicked_params (s : State) : (stlTicked s).params = s.params := by
  unfold stlTicked; split <;> rfl

@[simp] theorem sampleOp_pulse_params (q : PState) (l : Level) (s : State) :
    (sampleOp l (pulseAct q l) s).params = s.params := by
  obtain ⟨-, ⟨-, -, hparams, -⟩, -⟩ := sampleOp_pulse q l s
  exact hparams

/-- A step leaves the parameters (R30). -/
theorem step_params {s t : State} (h : step s = .next t) : t.params = s.params := by
  obtain ⟨-, rfl⟩ | ⟨-, ⟨-, rfl⟩ | ⟨-, rfl⟩ | ⟨-, rfl⟩ | ⟨-, rfl⟩ | ⟨-, hx⟩⟩ := step_cases h
  · rfl
  · split <;> rfl
  · split <;> simp
  · split <;> simp
  · split <;> simp
  · rw [execDecode_writes hx, State.clockEdge_params]

/-- Settles O49, by the ways a step answers. -/
theorem parametersNeverChange : Obligations.ParametersNeverChange := fun _ _ => step_params

/-! ### CNT -/

theorem Inv.cnt_le {s : State} (h : Inv s) : s.cnt.toNat ≤ 4 * s.params.idleBound + 1 := by
  have hcnt := h.cnt_le_unch
  have hunch := h.idle.1
  omega

/-- Settles O46: the bound is the invariant's, and below it a sample cannot wrap. -/
theorem counterNeverWraps : Obligations.CounterNeverWraps := by
  refine fun s t h hstep => ⟨?bound, fun hp hr ht hmove => ?count⟩
  case bound => exact step_params hstep ▸ (everyStepKeepsTheInvariant s t h hstep).cnt_le
  case count =>
    rw [step_acquire hp hr, ht, if_pos rfl] at hstep
    cases hstep
    rw [sampleOp_pulse_cnt, if_neg hmove]
    exact h.cnt_succ hp

/-- Settles O50: the first edge completes the cycle, and the second starts the next one. -/
theorem heldStartShowsTheResultForOnePeriod : Obligations.HeldStartShowsTheResultForOnePeriod := by
  intro s p q rest h hp hpins hrp hrq hsq
  have hfirst : s.nextPins = p := State.nextPins_cons hpins
  obtain ⟨t, ht⟩ := h.clockEdge.exists_execDecode
  have hw := execDecode_writes ht
  have hphase : t.phase = .idle := congrArg State.phase hw
  have hsecond : t.nextPins = q :=
    State.nextPins_cons (ps := rest) (by rw [hw]; simp [hpins])
  refine ⟨t, t.clockEdge.clear .startHigh, (step_decode hp (hfirst ▸ hrp)).trans ht,
    congrArg State.rdy hw, hphase, ?_, rfl, rfl, rfl, rfl, rfl, rfl⟩
  rw [step_idle hphase (hsecond ▸ hrq), hsecond, hsq, if_pos rfl]

end Sys2Proof.Machine

/-! PROOFS. The frames of the three families of operations (R58 to R71, R90), and that P has one writer
and one reader (R33, R34). -/

namespace Sys2Proof.Machine

/-! ### The sequencer -/

/-- STH.TICK writes PHASE and TIMER. -/
theorem sthTicked_writes (s : State) :
    sthTicked s = { s with phase := (sthTicked s).phase, timer := (sthTicked s).timer } := by
  unfold sthTicked
  split <;> rfl

/-- STL.TICK writes PHASE, TIMER and PUE. -/
theorem stlTicked_writes (s : State) :
    stlTicked s =
      { s with
        phase := (stlTicked s).phase, timer := (stlTicked s).timer, pue := (stlTicked s).pue } := by
  unfold stlTicked
  split <;> rfl

/-- Settles O17: an operation of the sequencer clears the block, holds, or ticks. -/
theorem sequencerFrame : Obligations.SequencerFrame := by
  intro i s t h hi
  cases i with
  | sthTick =>
    cases (exec_sthTick s).symm.trans h
    rw [sthTicked_writes]
    simp
  | stlTick =>
    cases (exec_stlTick s).symm.trans h
    rw [stlTicked_writes]
    simp
  | reset | idleHold | idleStart | sthHold | stlHold | acqHold =>
    cases h
    simp
  | _ => simp at hi

/-! ### The sample operations -/

/-- Settles O23: the field lemmas of the parts of R71, and for DPD.L those of recording a period. -/
theorem sampleFrame : Obligations.SampleFrame := by
  intro i l s t hl h
  cases i with
  | reset | idleHold | idleStart | sthHold | sthTick | stlHold | stlTick | acqHold | decode => cases hl
  | dpdL =>
    cases (exec_dpdL s).symm.trans h
    refine ⟨rfl, rfl, rfl, rfl, rfl, rfl, rfl, rfl, rfl, rfl, nofun, fun a ha => ?_, nofun⟩
    exact State.recordPeriod_read_other (s := s.countSample) fun hlt => ha ⟨rfl, hlt⟩
  | ipdL | ipdH | ipuL | ipuH | dfpdL | dfpdH | dpuL | dpuH | dpdH =>
    cases h
    simp [sampleOp]

/-! ### DECODE -/

/-- Settles O30: DECODE writes PHASE and the result registers alone. -/
theorem decodeFrame : Obligations.DecodeFrame := by
  refine ⟨hasPattern_of_mem (by decide), fun s t h => ?_⟩
  rw [execDecode_writes h]
  simp

/-- Settles O31: the reading of P names the first entry without a value. -/
theorem unwrittenPeriodStopsDecode : Obligations.UnwrittenPeriodStopsDecode := by
  intro s j hc hj hnone hbefore
  have hperiod {i : Nat} (hi : i < 40) : s.period? i = s.periods.read i :=
    State.period?_of_lt (hc ▸ hi)
  refine execDecode_of_error hc ?_
  cases hr : s.readPeriods 0 Config.nBits with
  | ok ps =>
    obtain ⟨hlen, hread⟩ := State.readPeriods_ok.1 hr
    have hj' := hread j hj
    rw [Nat.zero_add, hperiod hj, hnone] at hj'
    exact absurd (List.getElem?_eq_none_iff.1 hj'.symm) (Nat.not_le.2 (hlen ▸ hj))
  | error i =>
    obtain ⟨⟨-, hi⟩, hi', hfirst⟩ := State.readPeriods_error hr
    rw [Nat.zero_add] at hi
    obtain hlt | rfl | hgt := Nat.lt_trichotomy i j
    · exact absurd ((hperiod hi).symm.trans hi') (hbefore i hlt)
    · rfl
    · exact absurd ((hperiod hj).trans hnone) (hfirst j (Nat.zero_le j) hgt)

/-- Settles O36: RDY is among the registers DECODE writes, and the shape follows its three cases. -/
theorem resultHasOneOfThreeShapes : Obligations.ResultHasOneOfThreeShapes := fun _ _ hs h =>
  ⟨(execDecode_flags h).1, resultShape_of_execDecode hs h⟩

/-! ### P -/

/-- Only DPD.L's part records a period. -/
theorem exec_periods {i : Instr} {s t : State} (hi : i ≠ .dpdL) (h : exec i s = .next t) :
    t.periods = s.periods := by
  cases i with
  | dpdL => exact absurd rfl hi
  | decode => rw [execDecode_writes h]
  | sthTick =>
    cases (exec_sthTick s).symm.trans h
    rw [sthTicked_writes]
  | stlTick =>
    cases (exec_stlTick s).symm.trans h
    rw [stlTicked_writes]
  | reset | idleHold | idleStart | sthHold | stlHold | acqHold => cases h; rfl
  | ipdL | ipdH | ipuL | ipuH | dfpdL | dfpdH | dpuL | dpuH | dpdH =>
    cases h
    simp [sampleOp]

/-- `s` with other contents of P. -/
def State.withPeriods (s : State) (m : Memory) : State := { s with periods := m }

/-- `f` does the same whatever P holds, P itself apart. -/
def PeriodBlind (f : State → State) : Prop :=
  ∀ s m, f s = (f (s.withPeriods m)).withPeriods (f s).periods

theorem periodBlind_sampleOp (q : PState) (l : Level) : PeriodBlind (sampleOp l (pulseAct q l)) := by
  intro s m
  cases q <;> cases l <;>
    simp only [pulseAct, sampleOp_skip, sampleOp_move, sampleOp_zero, sampleOp_record] <;> rfl

theorem periodBlind_sthTicked : PeriodBlind sthTicked := by
  intro s m
  unfold sthTicked State.withPeriods
  dsimp only
  split <;> rfl

theorem periodBlind_stlTicked : PeriodBlind stlTicked := by
  intro s m
  unfold stlTicked State.withPeriods
  dsimp only
  split <;> rfl

/-- Every operation but DECODE. -/
theorem exec_periodBlind {i : Instr} (hd : i ≠ .decode) :
    ∃ f, PeriodBlind f ∧ ∀ s, exec i s = .next (f s) := by
  cases hl : sampleLevel i with
  | some l =>
    obtain ⟨q, hx, -⟩ := exec_of_sampleLevel hl
    exact ⟨_, periodBlind_sampleOp q l, hx⟩
  | none =>
    cases i with
    | decode => exact absurd rfl hd
    | sthTick => exact ⟨_, periodBlind_sthTicked, exec_sthTick⟩
    | stlTick => exact ⟨_, periodBlind_stlTicked, exec_stlTick⟩
    | reset => exact ⟨fun s => s.clear .idle, fun _ _ => rfl, exec_reset⟩
    | idleStart => exact ⟨fun s => s.clear .startHigh, fun _ _ => rfl, exec_idleStart⟩
    | idleHold | sthHold | stlHold | acqHold => exact ⟨id, fun _ _ => rfl, fun _ => rfl⟩
    | _ => cases hl

/-- Settles O37: DPD.L alone writes P, and LENCHK keeps DECODE from reading it. -/
theorem periodMemoryHasOneWriterAndOneReader : Obligations.PeriodMemoryHasOneWriterAndOneReader := by
  refine ⟨fun i s t => exec_periods, fun i s m hi => ?blind⟩
  case blind =>
    by_cases hd : i = .decode
    · have hc : s.pcount.toNat ≠ 40 := hi.resolve_left (not_not_intro hd)
      subst hd
      exact ⟨_, _, execDecode_of_ne hc, execDecode_of_ne (s := s.withPeriods m) hc, rfl⟩
    · obtain ⟨f, hf, hx⟩ := exec_periodBlind hd
      exact ⟨_, _, hx s, hx (s.withPeriods m), hf s m⟩

end Sys2Proof.Machine

/-! PROOFS. Laws of the threshold (R100), and equal periods (R101). -/

namespace Sys2Proof.Machine

/-! ### The extremes of a list of periods -/

theorem shortest_unique {ps : List Period} {p : Period} (hp : p ∈ ps) (hle : ∀ q ∈ ps, p ≤ q) :
    shortest ps = p :=
  BitVec.le_antisymm (shortest_le hp) (hle _ (shortest_mem (List.ne_nil_of_mem hp)))

theorem longest_unique {ps : List Period} {p : Period} (hp : p ∈ ps) (hle : ∀ q ∈ ps, q ≤ p) :
    longest ps = p :=
  BitVec.le_antisymm (hle _ (longest_mem (List.ne_nil_of_mem hp))) (le_longest hp)

section
variable {ps : List Period} {f : Period → Period} (hne : ps ≠ [])
  (hf : ∀ p ∈ ps, ∀ q ∈ ps, p ≤ q → f p ≤ f q)
include hne hf

theorem shortest_map : shortest (ps.map f) = f (shortest ps) := by
  refine shortest_unique (List.mem_map_of_mem (shortest_mem hne)) fun q hq => ?_
  obtain ⟨p, hp, rfl⟩ := List.mem_map.1 hq
  exact hf _ (shortest_mem hne) _ hp (shortest_le hp)

theorem longest_map : longest (ps.map f) = f (longest ps) := by
  refine longest_unique (List.mem_map_of_mem (longest_mem hne)) fun q hq => ?_
  obtain ⟨p, hp, rfl⟩ := List.mem_map.1 hq
  exact hf _ hp _ (longest_mem hne) (le_longest hp)

end

/-! ### The decisions -/

theorem sliceAll_getElem? {ps : List Period} {i : Nat} {p : Period} (h : ps[i]? = some p) :
    (sliceAll ps)[i]? =
      some (decide ((shortest ps).toNat + (longest ps).toNat < 2 * p.toNat)) := by
  rw [sliceAll, List.getElem?_map, h, Option.map_some, slice_thresh]

/-- A change of all periods that keeps their order and the doubled comparison keeps every decision. -/
theorem sliceAll_map {ps : List Period} {f : Period → Period}
    (hf : ∀ p ∈ ps, ∀ q ∈ ps, p ≤ q → f p ≤ f q)
    (hcut : ∀ a ∈ ps, ∀ b ∈ ps, ∀ p ∈ ps,
      (f a).toNat + (f b).toNat < 2 * (f p).toNat ↔ a.toNat + b.toNat < 2 * p.toNat) :
    sliceAll (ps.map f) = sliceAll ps := by
  by_cases hne : ps = []
  · rw [hne, List.map_nil]
  rw [sliceAll, sliceAll, List.map_map, shortest_map hne hf, longest_map hne hf]
  refine List.map_congr_left fun p hp => ?_
  rw [Function.comp_apply, slice_thresh, slice_thresh, decide_eq_decide]
  exact hcut _ (shortest_mem hne) _ (longest_mem hne) _ hp

/-- A least period is not above the midpoint (R100 a). -/
theorem sliceAll_least {ps : List Period} {i : Nat} {p : Period} (hi : ps[i]? = some p)
    (hle : ∀ q ∈ ps, p ≤ q) : (sliceAll ps)[i]? = some false := by
  have hp : p ∈ ps := List.mem_of_getElem? hi
  have hlong : p.toNat ≤ (longest ps).toNat := le_longest hp
  rw [sliceAll_getElem? hi, shortest_unique hp hle, decide_eq_false (by omega)]

/-- A greatest period is above the midpoint unless all are equal (R100 b). -/
theorem sliceAll_greatest {ps : List Period} {i : Nat} {p : Period} (hi : ps[i]? = some p)
    (hle : ∀ q ∈ ps, q ≤ p) (hne : ∃ q ∈ ps, q ≠ p) : (sliceAll ps)[i]? = some true := by
  have hp : p ∈ ps := List.mem_of_getElem? hi
  obtain ⟨q, hq, hqp⟩ := hne
  have hshort : (shortest ps).toNat ≤ q.toNat := shortest_le hq
  have hlt : q.toNat < p.toNat :=
    lt_of_le_of_ne (hle q hq) fun he => hqp (BitVec.eq_of_toNat_eq he)
  rw [sliceAll_getElem? hi, longest_unique hp hle, decide_eq_true (by omega)]

/-- Equal periods are least periods (R100 c). -/
theorem sliceAll_equal {ps : List Period} {v : Period} (h : ∀ q ∈ ps, q = v) :
    sliceAll ps = List.replicate ps.length false := by
  refine List.eq_replicate_iff.2 ⟨by simp [sliceAll], fun b hb => ?_⟩
  obtain ⟨p, hp, rfl⟩ := List.mem_map.1 hb
  have hshort : shortest ps = p :=
    shortest_unique hp fun q hq => h p hp ▸ h q hq ▸ BitVec.le_refl v
  have hlong : p.toNat ≤ (longest ps).toNat := le_longest hp
  rw [slice_thresh, hshort, decide_eq_false (by omega)]

theorem toNat_add_period {p c : Period} (h : p.toNat + c.toNat < 2 ^ 16) :
    (p + c).toNat = p.toNat + c.toNat := by
  rw [BitVec.toNat_add, Nat.mod_eq_of_lt h]

theorem toNat_mul_period {p k : Period} (h : p.toNat * k.toNat < 2 ^ 16) :
    (p * k).toNat = p.toNat * k.toNat := by
  rw [BitVec.toNat_mul, Nat.mod_eq_of_lt h]

/-- Settles O33: (a) to (c) by the extremes, (d) since both changes keep order and comparison. -/
theorem thresholdLaws : Obligations.ThresholdLaws := by
  refine fun ps => ⟨fun i p => sliceAll_least, fun i p => sliceAll_greatest, fun v h b hb => ?equal,
    fun c hc => sliceAll_map ?addMono ?addCut, fun k hk hbits => sliceAll_map ?mulMono ?mulCut⟩
  case equal =>
    rw [sliceAll_equal h] at hb
    exact List.eq_of_mem_replicate hb
  case addMono =>
    intro p hp q hq hle
    have hle : p.toNat ≤ q.toNat := hle
    rw [BitVec.le_def, toNat_add_period (hc p hp), toNat_add_period (hc q hq)]
    omega
  case addCut =>
    intro a ha b hb p hp
    rw [toNat_add_period (hc a ha), toNat_add_period (hc b hb), toNat_add_period (hc p hp)]
    omega
  case mulMono =>
    intro p hp q hq hle
    rw [BitVec.le_def, toNat_mul_period (hbits p hp), toNat_mul_period (hbits q hq)]
    exact Nat.mul_le_mul_right _ hle
  case mulCut =>
    intro a ha b hb p hp
    have hpos : 0 < k.toNat := Nat.pos_of_ne_zero fun h0 => hk (BitVec.eq_of_toNat_eq h0)
    rw [toNat_mul_period (hbits a ha), toNat_mul_period (hbits b hb), toNat_mul_period (hbits p hp),
      ← Nat.add_mul, ← Nat.mul_assoc, Nat.mul_lt_mul_right hpos]

/-! ### Forty equal periods -/

/-- Equal recorded periods are cut to forty 0 bits. -/
theorem recordedFrame_const (v : Period) : recordedFrame (fun _ => v) = 0 := by
  have hslice : sliceAll (recordedPeriods fun _ => v) = List.replicate 40 false :=
    sliceAll_equal fun q hq => by
      obtain ⟨-, -, rfl⟩ := mem_recordedPeriods.1 hq
      rfl
  rw [recordedFrame, hslice]
  decide +kernel

/-- Settles O34: a frame of 0 bits has checksum 0. -/
theorem equalPeriodsReadAsZero : Obligations.EqualPeriodsReadAsZero := by
  intro s v hc hv
  rw [exec_decode_recorded hc hv, recordedFrame_const]
  rfl

end Sys2Proof.Machine

/-! PROOFS. The hexadecimal form of a program (R53). -/

namespace Sys2Proof

/-- A further sample shifts the earlier ones up. -/
theorem sampleByte_snoc (bs : List Level) (b : Level) :
    sampleByte (bs ++ [b]) = sampleByte bs <<< 1 ||| (BitVec.ofBool b.bit).setWidth 8 := by
  simp [sampleByte]

/-- The last sample is bit 0, and the ones before it follow upwards. -/
theorem sampleByte_getLsbD (bs : List Level) {i : Nat} (hi : i < 8) :
    (sampleByte bs).getLsbD i = (bs.reverse[i]?).elim false Level.bit := by
  induction bs using List.reverseRecOn generalizing i with
  | nil => simp [sampleByte]
  | append_singleton bs b ih =>
    rw [sampleByte_snoc, List.reverse_append, List.reverse_singleton, List.singleton_append]
    cases i with
    | zero => simp
    | succ i =>
      rw [List.getElem?_cons_succ, ← ih (by omega)]
      simp [hi, BitVec.getLsbD_eq_getElem (show i < 8 by omega)]

/-- Moved to the top of a byte, the samples stand in their order and 0 bits follow them. -/
theorem sampleByte_getMsbD {bs : List Level} (hlen : bs.length ≤ 8) {i : Nat} (hi : i < 8) :
    (sampleByte bs <<< (8 - bs.length)).getMsbD i = (bs[i]?).elim false Level.bit := by
  rw [BitVec.getMsbD_eq_getLsbD, BitVec.getLsbD_shiftLeft]
  by_cases hpad : bs.length ≤ i
  · have hlt : 8 - 1 - i < 8 - bs.length := by omega
    simp [List.getElem?_eq_none hpad, hlt]
  · have hge : ¬8 - 1 - i < 8 - bs.length := by omega
    have hpos : 8 - 1 - i - (8 - bs.length) = bs.length - 1 - i := by omega
    rw [hpos, sampleByte_getLsbD bs (by omega), List.getElem?_reverse (by omega)]
    have hback : bs.length - 1 - (bs.length - 1 - i) = i := by omega
    simp [hi, hge, hback, show 8 - 1 - i < 8 by omega]

theorem packSamples_append {bs : List Level} (h : bs.length = 8) (rest : List Level) :
    packSamples (bs ++ rest) = sampleByte bs :: packSamples rest :=
  match bs, h with
  | [_, _, _, _, _, _, _, _], _ => rfl

theorem packSamples_short {bs : List Level} (hpos : bs ≠ []) (h : bs.length < 8) :
    packSamples bs = [sampleByte bs <<< (8 - bs.length)] :=
  match bs, hpos, h with
  | [_], _, _ | [_, _], _, _ | [_, _, _], _, _ | [_, _, _, _], _, _ | [_, _, _, _, _], _, _
  | [_, _, _, _, _, _], _, _ | [_, _, _, _, _, _, _], _, _ => rfl

/-- A list of samples is empty, short, or a byte's worth and a rest. -/
theorem packSamples_induct {P : List Level → Prop} (nil : P [])
    (short : ∀ bs, bs ≠ [] → bs.length < 8 → P bs)
    (byte : ∀ bs rest, bs.length = 8 → P rest → P (bs ++ rest)) (ls : List Level) : P ls := by
  by_cases hlen : ls.length < 8
  · by_cases hnil : ls = []
    · exact hnil ▸ nil
    · exact short ls hnil hlen
  · rw [← List.take_append_drop 8 ls]
    exact byte _ _ (by simp; omega) (packSamples_induct nil short byte (ls.drop 8))
termination_by ls.length
decreasing_by
  rw [List.length_drop]
  omega

theorem packSamples_length (ls : List Level) : (packSamples ls).length = (ls.length + 7) / 8 := by
  induction ls using packSamples_induct with
  | nil => rfl
  | short bs hne h =>
    have hpos := List.length_pos_of_ne_nil hne
    rw [packSamples_short hne h, List.length_singleton]
    omega
  | byte bs rest h ih =>
    rw [packSamples_append h, List.length_cons, ih, List.length_append, h]
    omega

/-- Bit `i` of the packed bytes is sample `i`, or padding. -/
theorem packSamples_getMsbD (ls : List Level) {i : Nat} (hi : i / 8 < (packSamples ls).length) :
    ((packSamples ls)[i / 8]?).map (fun v => v.getMsbD (i % 8)) =
      some ((ls[i]?).elim false Level.bit) := by
  induction ls using packSamples_induct generalizing i with
  | nil => exact absurd hi (Nat.not_lt_zero _)
  | short bs hne h =>
    rw [packSamples_short hne h, List.length_singleton] at hi
    have hlt : i < 8 := by omega
    rw [packSamples_short hne h, Nat.div_eq_of_lt hlt, Nat.mod_eq_of_lt hlt, List.getElem?_cons_zero,
      Option.map_some, sampleByte_getMsbD (Nat.le_of_lt h) hlt]
  | byte bs rest h ih =>
    rw [packSamples_append h] at hi ⊢
    obtain hlt | ⟨j, rfl⟩ : i < 8 ∨ ∃ j, i = j + 8 := by
      by_cases hlt : i < 8
      · exact .inl hlt
      · exact .inr ⟨i - 8, by omega⟩
    · have hbyte := sampleByte_getMsbD (bs := bs) (by omega) hlt
      rw [h, Nat.sub_self, BitVec.shiftLeft_zero] at hbyte
      rw [Nat.div_eq_of_lt hlt, Nat.mod_eq_of_lt hlt, List.getElem?_cons_zero, Option.map_some, hbyte,
        List.getElem?_append_left (h ▸ hlt)]
    · rw [Nat.add_div_right j (by decide), List.length_cons] at hi
      rw [Nat.add_div_right j (by decide), Nat.add_mod_right, List.getElem?_cons_succ,
        ih (Nat.lt_of_succ_lt_succ hi), List.getElem?_append_right (by omega), h, Nat.add_sub_cancel]

/-- Settles O52, by induction on the bytes. -/
theorem packedSamplesKeepEverySample : Obligations.PackedSamplesKeepEverySample := fun ls =>
  ⟨packSamples_length ls, fun _ hi => packSamples_getMsbD ls (Nat.div_lt_of_lt_mul hi)⟩

end Sys2Proof

/-! PROOFS. Runs of the machine: the handshake (R73), one HIGH run and its period (R86), and a line that
stands still (R131). -/

namespace Sys2Proof.Machine

/-- A run, and one edge more. -/
theorem core_run_snoc {n : Nat} {s t u : State} (hrun : core.run n s = .next t)
    (hstep : step t = .next u) : core.run (n + 1) s = .next u := by
  rw [core_run_add n 1 s t hrun, core_run_next hstep, core_run_zero]

/-! ### The handshake -/

theorem AllTicks.of_append {ps qs : List Pins} (h : AllTicks (ps ++ qs)) : AllTicks ps ∧ AllTicks qs :=
  ⟨fun p hp => h p (List.mem_append_left qs hp), fun p hp => h p (List.mem_append_right ps hp)⟩

/-- The two start phases, one after the other. -/
theorem run_startPhases {s : State} {psH psL rest : List Pins} (hwf : s.params.wf)
    (hp : s.phase = .startHigh) (h0 : s.timer = 0) (hticks : AllTicks (psH ++ psL))
    (hH : psH.length = s.params.startHighTicks) (hL : psL.length = s.params.startLowTicks)
    (hpins : s.pins = psH ++ (psL ++ rest)) :
    core.run (psH ++ psL).length s =
        .next
          { s with
            phase := .acquire, timer := 0, pue := true, pins := rest
            edge := s.edge + psH.length + psL.length } ∧
      (∀ k < psH.length, ∃ t : State, core.run k s = .next t ∧ t.phase = .startHigh) ∧
      ∀ k < psL.length, ∃ t : State, core.run (psH.length + k) s = .next t ∧ t.phase = .startLow := by
  obtain ⟨hticksH, hticksL⟩ := hticks.of_append
  obtain ⟨-, -, hhigh⟩ := startHighTick
  obtain ⟨-, -, hlow⟩ := startLowTick
  obtain ⟨hrunH, hduringH⟩ := hhigh s psH (psL ++ rest) hwf hp h0 hticksH hH hpins
  obtain ⟨hrunL, hduringL⟩ := hlow
    { s with phase := .startLow, timer := 0, pins := psL ++ rest, edge := s.edge + psH.length }
    psL rest hwf rfl rfl hticksL hL rfl
  refine ⟨?_, hduringH, fun k hk => ?_⟩
  · rw [List.length_append, core_run_add _ _ _ _ hrunH, hrunL]
  · rw [core_run_add _ _ _ _ hrunH]
    exact hduringL k hk

/-- Settles O16: IDLE.START clears the block and enters the two start phases. -/
theorem handshakeReachesAcquire : Obligations.HandshakeReachesAcquire := by
  intro s p ps rest hwf hp hr hstart hticks hlen hpins
  obtain ⟨psH, psL, rfl, hH, hL⟩ : ∃ psH psL, ps = psH ++ psL ∧
      psH.length = s.params.startHighTicks ∧ psL.length = s.params.startLowTicks :=
    ⟨ps.take s.params.startHighTicks, ps.drop s.params.startHighTicks,
      (List.take_append_drop _ ps).symm, by simp; omega, by simp; omega⟩
  have hpin : s.nextPins = p := State.nextPins_cons hpins
  have hfirst : step s = .next (s.clockEdge.clear .startHigh) := by
    rw [step_idle hp (hpin ▸ hr), hpin, hstart, if_pos rfl]
  obtain ⟨hrun, hhigh, hlow⟩ := run_startPhases (s := s.clockEdge.clear .startHigh) hwf rfl rfl hticks
    hH hL (rest := rest) (by simp [hpins])
  refine ⟨_, (core_run_next hfirst).trans hrun, rfl, rfl, rfl, rfl, rfl, rfl, rfl, rfl, rfl,
    fun k hk hle => ?_⟩
  obtain ⟨j, rfl⟩ : ∃ j, k = j + 1 := ⟨k - 1, by omega⟩
  rw [core_run_next hfirst, ← hH]
  rw [List.length_append] at hle
  by_cases hj : j < psH.length
  · obtain ⟨u, hu, hphase⟩ := hhigh j hj
    exact ⟨u, hu, by simp [State.lineOe, hphase], by simp [State.lineOut, hphase]; omega⟩
  · obtain ⟨i, rfl⟩ : ∃ i, j = psH.length + i := ⟨j - psH.length, by omega⟩
    obtain ⟨u, hu, hphase⟩ := hlow i (by omega)
    exact ⟨u, hu, by simp [State.lineOe, hphase], by simp [State.lineOut, hphase]⟩

/-! ### A tick of ACQUIRE -/

/-- `s` after a tick of ACQUIRE that samples `l`. -/
def State.afterSample (s : State) (l : Level) : State := sampleOp l (pulseAct s.pstate l) s.clockEdge

theorem step_afterSample {s : State} (hp : s.phase = .acquire) (hr : s.nextPins.rst = false)
    (ht : s.nextPins.tick = true) : step s = .next (s.afterSample s.nextPins.din) := by
  rw [step_acquire hp hr, ht, if_pos rfl]
  rfl

section
variable (s : State) (l : Level)

@[simp] theorem State.afterSample_phase : (s.afterSample l).phase = phaseAfter l s := by
  obtain ⟨⟨hphase, -⟩, -⟩ := sampleOp_pulse s.pstate l s.clockEdge
  exact hphase

@[simp] theorem State.afterSample_unch : (s.afterSample l).unch = idleAfter l s := by
  obtain ⟨⟨-, hunch, -⟩, -⟩ := sampleOp_pulse s.pstate l s.clockEdge
  exact hunch

@[simp] theorem State.afterSample_last : (s.afterSample l).last = l := by
  obtain ⟨⟨-, -, hlast, -⟩, -⟩ := sampleOp_pulse s.pstate l s.clockEdge
  exact hlast

@[simp] theorem State.afterSample_lastv : (s.afterSample l).lastv = true := by
  obtain ⟨⟨-, -, -, hlastv⟩, -⟩ := sampleOp_pulse s.pstate l s.clockEdge
  exact hlastv

@[simp] theorem State.afterSample_params : (s.afterSample l).params = s.params :=
  sampleOp_pulse_params s.pstate l s.clockEdge

@[simp] theorem State.afterSample_pins : (s.afterSample l).pins = s.pins.tail := by
  obtain ⟨-, ⟨-, -, -, hpins, -⟩, -⟩ := sampleOp_pulse s.pstate l s.clockEdge
  exact hpins

theorem State.afterSample_pstate :
    (s.afterSample l).pstate = (Claims.pulseMove s.pstate l).getD s.pstate :=
  sampleOp_pulse_pstate (s := s.clockEdge) l rfl

theorem State.afterSample_cnt : (s.afterSample l).cnt =
    if s.pstate = .dataPullUp ∧ l = .high then 0 else s.cnt + 1 :=
  sampleOp_pulse_cnt s.pstate l s.clockEdge

theorem State.afterSample_pcount : (s.afterSample l).pcount =
    if s.pstate = .dataPullDown ∧ l = .low then s.countSample.recordPeriod.pcount else s.pcount :=
  sampleOp_pulse_pcount s.pstate l s.clockEdge

theorem State.afterSample_periods : (s.afterSample l).periods =
    if s.pstate = .dataPullDown ∧ l = .low then s.countSample.recordPeriod.periods
    else s.periods :=
  sampleOp_pulse_periods s.pstate l s.clockEdge

end

theorem Inv.afterSample {s : State} (h : Inv s) (hp : s.phase = .acquire) (l : Level) :
    Inv (s.afterSample l) := h.clockEdge.sample hp l

/-! ### A HIGH run -/

/-- `k` HIGH samples of a run entered in state 4 are taken: the first zeroes CNT, the others count. -/
structure InHighRun (s : State) (k : Nat) (t : State) : Prop where
  run : InRun .high s k t
  pcount : t.pcount = s.pcount
  periods : t.periods = s.periods
  entered : k = 0 → t.pstate = .dataPullUp
  counting : 0 < k → t.pstate = .dataPullDown ∧ t.last = .high ∧ t.cnt.toNat + 1 = k

theorem InHighRun.zero {s : State} (hp : s.phase = .acquire) (hq : s.pstate = .dataPullUp)
    (hl : s.last = .low) : InHighRun s 0 s where
  run := ⟨hp, by simp [idleAfter, hl], rfl, rfl⟩
  pcount := rfl
  periods := rfl
  entered := fun _ => hq
  counting := fun h => absurd h (Nat.lt_irrefl 0)

section
variable {s : State} {ps rest : List Pins} {k : Nat} (hpins : s.pins = ps ++ rest)
  (hticks : AllTicks ps) (hdin : ∀ p ∈ ps, p.din = .high) (hk : k < ps.length)
  (hle : ps.length ≤ s.params.idleBound) (hbound : s.params.idleBound < 2 ^ 7)
include hpins hticks hdin hk hle hbound

/-- A further HIGH sample. -/
theorem InHighRun.step {t : State} (h : InHighRun s k t) :
    ∃ u, step t = .next u ∧ InHighRun s (k + 1) u := by
  obtain ⟨u, hu, -, -, hnext⟩ := h.run.step hpins hticks hdin hk
  have hpin : t.nextPins = ps[k] := State.nextPins_of_drop hpins hk h.run.pins
  have hmem : ps[k] ∈ ps := List.getElem_mem hk
  obtain ⟨hr, ht⟩ := hticks _ hmem
  have hstep := step_afterSample h.run.phase (hpin ▸ hr) (hpin ▸ ht)
  rw [hpin, hdin _ hmem] at hstep
  cases hstep.symm.trans hu
  refine ⟨_, hstep, hnext (by omega) hbound, ?_, ?_, nofun, fun _ => ?_⟩
  · rw [State.afterSample_pcount, if_neg (by simp)]
    exact h.pcount
  · rw [State.afterSample_periods, if_neg (by simp)]
    exact h.periods
  · rw [State.afterSample_pstate, State.afterSample_cnt, State.afterSample_last]
    cases k with
    | zero => simp [h.entered rfl, Claims.pulseMove]
    | succ k =>
      obtain ⟨hq, -, hcnt⟩ := h.counting (Nat.succ_pos k)
      have hsucc : (t.cnt + 1).toNat = t.cnt.toNat + 1 := by
        rw [BitVec.toNat_add]
        exact Nat.mod_eq_of_lt (show t.cnt.toNat + 1 < 2 ^ 16 by omega)
      refine ⟨by rw [hq]; rfl, rfl, ?_⟩
      rw [if_neg (by simp [hq]), hsucc, hcnt]

end

/-- Settles O24: after the run CNT stands one below its length, and the closing LOW sample records the
incremented CNT. -/
theorem periodIsTheLengthOfItsHighRun : Obligations.PeriodIsTheLengthOfItsHighRun := by
  intro s ps rest q hwf hp hq hv hl hcount hpos hle hticks hdin hlow hpins
  obtain ⟨⟨hib, hbound⟩, -⟩ := hwf
  obtain ⟨hticksH, hticksL⟩ := hticks.of_append
  obtain ⟨t, hrun, ht⟩ : ∃ t : State, core.run ps.length s = .next t ∧ InHighRun s ps.length t :=
    core_run_induct (InHighRun.zero hp hq hl) fun k hk t ht =>
      InHighRun.step hpins hticksH hdin hk hle hbound ht
  obtain ⟨hpst, hlast, hcnt⟩ := ht.counting hpos
  have hdrop : t.pins = q :: rest := by rw [ht.run.pins, hpins, List.drop_left]
  have hpin : t.nextPins = q := State.nextPins_cons hdrop
  obtain ⟨hqr, hqt⟩ := hticksL q List.mem_cons_self
  have hstep := step_afterSample ht.run.phase (hpin ▸ hqr) (hpin ▸ hqt)
  rw [hpin, hlow] at hstep
  have hcount' : t.countSample.pcount = s.pcount := ht.pcount
  have hperiods : t.countSample.periods = s.periods := ht.periods
  have hclosed : t.countSample.cnt = BitVec.ofNat 16 ps.length := by
    rw [← hcnt, BitVec.ofNat_add, BitVec.ofNat_toNat]
    simp
  refine ⟨_, core_run_snoc hrun hstep, ?phase, ?pstate, ?entry, fun a ha => ?others, ?pcount, ?pins⟩
  case phase =>
    have hidle : idleAfter .low t = 0 := if_pos (.inr (by simp [hlast]))
    rw [State.afterSample_phase, phaseAfter, hidle, if_neg ?_, ht.run.phase]
    exact (Nat.ne_of_gt (ht.run.params ▸ hib)).symm
  case pstate =>
    rw [State.afterSample_pstate, hpst]
    rfl
  case entry =>
    rw [State.afterSample_periods, if_pos ⟨hpst, rfl⟩, ← hclosed, ← hcount']
    exact State.recordPeriod_read_pcount (hcount' ▸ hcount)
  case others =>
    rw [State.afterSample_periods, if_pos ⟨hpst, rfl⟩, ← hperiods]
    exact State.recordPeriod_read_other fun hlt => ha (hlt.2.trans (congrArg _ hcount'))
  case pcount =>
    rw [State.afterSample_pcount, if_pos ⟨hpst, rfl⟩, State.recordPeriod_pcount, hcount',
      if_pos (Nat.lt_succ_of_lt hcount)]
  case pins => rw [State.afterSample_pins, hdrop, List.tail_cons]

/-! ### A line that stands still -/

/-- UNCH grows with each sample of an unchanged level, and DECODE comes before it passes its bound. -/
theorem decode_of_still {l : Level} {rest : List Pins} : ∀ (ps : List Pins) (s : State), Inv s →
    s.phase = .acquire → AllTicks ps → (∀ p ∈ ps, p.din = l) → s.pins = ps ++ rest →
    s.params.idleBound < (idleAfter l s).toNat + ps.length →
    ∃ k ≤ ps.length, ∃ t, core.run k s = .next t ∧ t.phase = .decode
  | [], s, h, hp, _, _, _, hlt => by
    have hunch := h.idle.2.1 hp
    rw [List.length_nil] at hlt
    obtain ⟨-, hi⟩ | ⟨-, -, hi⟩ := h.idleAfter_cases hp l <;> omega
  | p :: ps, s, h, hp, hticks, hdin, hpins, hlt => by
    have hpin : s.nextPins = p := State.nextPins_cons hpins
    obtain ⟨⟨hr, ht⟩, hticks⟩ := List.forall_mem_cons.1 hticks
    obtain ⟨hl, hdin⟩ := List.forall_mem_cons.1 hdin
    have hstep := step_afterSample hp (hpin ▸ hr) (hpin ▸ ht)
    rw [hpin, hl] at hstep
    have hinv := h.afterSample hp l
    obtain hacq | hdec := phaseAfter_cases l s
    · have hphase : (s.afterSample l).phase = .acquire := by rw [State.afterSample_phase, hacq, hp]
      have hidle : (idleAfter l (s.afterSample l)).toNat = (idleAfter l s).toNat + 1 := by
        obtain ⟨hnew, -⟩ | ⟨-, -, hi⟩ := hinv.idleAfter_cases hphase l
        · simp at hnew
        · rw [hi, State.afterSample_unch]
      obtain ⟨k, hk, t, hrun, ht⟩ := decode_of_still ps _ hinv hphase hticks hdin
        (rest := rest) (by rw [State.afterSample_pins, hpins]; rfl)
        (by rw [hidle, State.afterSample_params]; rw [List.length_cons] at hlt; omega)
      exact ⟨k + 1, Nat.succ_le_succ hk, t, (core_run_next hstep).trans hrun, ht⟩
    · exact ⟨1, by simp, _, core_run_snoc (core_run_zero s) hstep,
        (State.afterSample_phase s l).trans hdec⟩

/-- Settles O26: whatever UNCH is at first, that many ticks take it past its bound. -/
theorem stillLineEndsAcquisition : Obligations.StillLineEndsAcquisition := by
  intro s ps rest l h hp hticks hdin hlen hpins
  rw [← hlen]
  exact decode_of_still ps s h hp hticks hdin hpins (by omega)

end Sys2Proof.Machine

/-! PROOFS. Sample sequences as lists of runs (R53, R88): a sequence has exactly one list of maximal runs,
and a further sample lengthens the last run or begins one. -/

namespace Sys2Proof.Machine

/-! ### The maximal runs of a sequence -/

/-- What a list of maximal runs is: none is empty, and neighbours differ in level. -/
def MaximalRuns (rs : List Run) : Prop :=
  rs.IsChain (fun r r' => r.level ≠ r'.level) ∧ ∀ r ∈ rs, r.wf

theorem maximalRuns_cons {r : Run} {rs : List Run} :
    MaximalRuns (r :: rs) ↔
      ((∀ r' ∈ rs.head?, r.level ≠ r'.level) ∧ r.wf) ∧ MaximalRuns rs := by
  simp only [MaximalRuns, List.isChain_cons, List.forall_mem_cons]
  tauto

/-- The runs of a sequence that a sample is put in front of. -/
theorem runsOf_cons (l : Level) (ls : List Level) :
    (runsOf ls = [] ∧ runsOf (l :: ls) = [⟨l, 1⟩]) ∨
      ∃ r rs, runsOf ls = r :: rs ∧
        runsOf (l :: ls) = if l = r.level then ⟨l, r.len + 1⟩ :: rs else ⟨l, 1⟩ :: r :: rs := by
  rw [runsOf]
  cases runsOf ls with
  | nil => exact .inl ⟨rfl, rfl⟩
  | cons r rs => exact .inr ⟨r, rs, rfl, rfl⟩

theorem maximalRuns_runsOf (ls : List Level) : MaximalRuns (runsOf ls) := by
  induction ls with
  | nil => exact ⟨List.isChain_nil, nofun⟩
  | cons l ls ih =>
    obtain ⟨-, heq⟩ | ⟨r, rs, hls, heq⟩ := runsOf_cons l ls
    · rw [heq]
      exact ⟨List.isChain_singleton _, by simp⟩
    · rw [hls, maximalRuns_cons] at ih
      obtain ⟨⟨hhead, hwf⟩, hrest⟩ := ih
      rw [heq]
      split
      case isTrue hl => exact maximalRuns_cons.2 ⟨⟨hl ▸ hhead, Nat.le_add_left 1 _⟩, hrest⟩
      case isFalse hl =>
        exact maximalRuns_cons.2
          ⟨⟨by simpa using hl, Nat.le_refl 1⟩, maximalRuns_cons.2 ⟨⟨hhead, hwf⟩, hrest⟩⟩

theorem runSamples_cons (r : Run) (rs : List Run) :
    runSamples (r :: rs) = List.replicate r.len r.level ++ runSamples rs := List.flatMap_cons

theorem runSamples_append (rs rs' : List Run) :
    runSamples (rs ++ rs') = runSamples rs ++ runSamples rs' := List.flatMap_append

/-- The runs of a sequence have its samples. -/
theorem runSamples_runsOf (ls : List Level) : runSamples (runsOf ls) = ls := by
  induction ls with
  | nil => rfl
  | cons l ls ih =>
    obtain ⟨hls, heq⟩ | ⟨r, rs, hls, heq⟩ := runsOf_cons l ls <;> rw [hls] at ih <;> rw [heq]
    · rw [← ih]
      rfl
    · split
      case isTrue hl =>
        rw [← ih, runSamples_cons, runSamples_cons, List.replicate_succ, hl, List.cons_append]
      case isFalse hl =>
        rw [runSamples_cons, ih]
        rfl

/-- A run put in front of a sequence that does not begin with its level. -/
theorem runsOf_replicate_append {l : Level} {ls : List Level}
    (h : ∀ r ∈ (runsOf ls).head?, l ≠ r.level) (n : Nat) :
    runsOf (List.replicate (n + 1) l ++ ls) = ⟨l, n + 1⟩ :: runsOf ls := by
  induction n with
  | zero =>
    obtain ⟨hls, heq⟩ | ⟨r, rs, hls, heq⟩ := runsOf_cons l ls
    · simpa [hls] using heq
    · have hne : l ≠ r.level := h r (by simp [hls])
      simpa [hls, hne] using heq
  | succ n ih =>
    rw [List.replicate_succ, List.cons_append]
    obtain ⟨hnil, -⟩ | ⟨r, rs, hls, heq⟩ := runsOf_cons l (List.replicate (n + 1) l ++ ls)
    · rw [ih] at hnil
      cases hnil
    · rw [ih] at hls
      cases hls
      rw [heq, if_pos rfl]

/-- A list of maximal runs is the list of the runs of its samples. -/
theorem runsOf_runSamples {rs : List Run} (h : MaximalRuns rs) : runsOf (runSamples rs) = rs := by
  induction rs with
  | nil => rfl
  | cons r rs ih =>
    obtain ⟨⟨hhead, hwf⟩, hrest⟩ := maximalRuns_cons.1 h
    obtain ⟨l, len⟩ := r
    obtain ⟨n, rfl⟩ : ∃ n, len = n + 1 := ⟨len - 1, (Nat.sub_add_cancel hwf).symm⟩
    have hrs := ih hrest
    rw [runSamples_cons, runsOf_replicate_append (by rwa [hrs]), hrs]

/-! ### A further sample -/

theorem maximalRuns_append {rs rs' : List Run} :
    MaximalRuns (rs ++ rs') ↔
      MaximalRuns rs ∧ MaximalRuns rs' ∧
        ∀ r ∈ rs.getLast?, ∀ r' ∈ rs'.head?, r.level ≠ r'.level := by
  simp only [MaximalRuns, List.isChain_append, List.forall_mem_append]
  tauto

section
variable {ls : List Level} {init : List Run} {r : Run} (h : runsOf ls = init ++ [r])
include h

theorem runsOf_snoc_same : runsOf (ls ++ [r.level]) = init ++ [⟨r.level, r.len + 1⟩] := by
  have hsamples : ls ++ [r.level] = runSamples (init ++ [⟨r.level, r.len + 1⟩]) := by
    rw [← runSamples_runsOf ls, h, runSamples_append, runSamples_append, runSamples_cons,
      runSamples_cons, List.replicate_succ']
    simp [runSamples]
  have hmax := maximalRuns_runsOf ls
  rw [h, maximalRuns_append] at hmax
  obtain ⟨hinit, -, hlevel⟩ := hmax
  rw [hsamples]
  refine runsOf_runSamples (maximalRuns_append.2 ⟨hinit, ⟨List.isChain_singleton _, by simp⟩, ?_⟩)
  simpa using hlevel

theorem runsOf_snoc_change {l : Level} (hl : l ≠ r.level) :
    runsOf (ls ++ [l]) = init ++ [r] ++ [⟨l, 1⟩] := by
  have hsamples : ls ++ [l] = runSamples (init ++ [r] ++ [⟨l, 1⟩]) := by
    rw [← runSamples_runsOf ls, h, runSamples_append (init ++ [r])]
    rfl
  rw [hsamples]
  refine runsOf_runSamples (maximalRuns_append.2
    ⟨h ▸ maximalRuns_runsOf ls, ⟨List.isChain_singleton _, by simp⟩, ?_⟩)
  simpa using hl.symm

end

/-- Bounds on the runs of a longer sequence, of which the last run may pass by one. -/
theorem runsOf_bounds_snoc {ls : List Level} {l : Level} {n : Nat}
    (hinit : ∀ q ∈ (runsOf (ls ++ [l])).dropLast, q.len ≤ n)
    (hall : ∀ q ∈ runsOf (ls ++ [l]), q.len ≤ n + 1) : ∀ q ∈ runsOf ls, q.len ≤ n := by
  obtain hnil | ⟨init, r, h⟩ := List.eq_nil_or_concat (runsOf ls)
  · rw [hnil]
    nofun
  rw [List.concat_eq_append] at h
  by_cases hl : l = r.level
  · rw [hl, runsOf_snoc_same h] at hinit hall
    rw [List.dropLast_concat] at hinit
    rw [h, List.forall_mem_append, List.forall_mem_singleton]
    exact ⟨hinit, Nat.le_of_succ_le_succ (hall _ (List.mem_append_right init List.mem_cons_self))⟩
  · rw [runsOf_snoc_change h hl, List.dropLast_concat] at hinit
    rwa [h]

/-! ### The periods among the runs -/

/-- The runs from the first LOW one on. -/
def afterLow (rs : List Run) : List Run := rs.dropWhile fun r => r.level == .high

/-- The HIGH runs among them. -/
def dataRuns (rs : List Run) : List Run := (afterLow rs).filter fun r => r.level == .high

/-- The lengths of the HIGH runs from the second one after the first LOW run on (R88). -/
def periodsIn (rs : List Run) : List Nat := ((dataRuns rs).drop 1).map Run.len

/-- The periods of a sequence are those of its runs without the last. -/
theorem periodsOf_eq (ls : List Level) : periodsOf ls = periodsIn (runsOf ls).dropLast := rfl

theorem afterLow_snoc (rs : List Run) (r : Run) :
    afterLow (rs ++ [r]) = if afterLow rs = [] ∧ r.level = .high then [] else afterLow rs ++ [r] := by
  unfold afterLow
  rw [List.dropWhile_append]
  by_cases hnil : List.dropWhile (fun r : Run => r.level == .high) rs = []
  · cases hl : r.level <;> simp [hnil, hl]
  · simp [hnil]

theorem dataRuns_snoc (rs : List Run) (r : Run) :
    dataRuns (rs ++ [r]) =
      if r.level = .high ∧ afterLow rs ≠ [] then dataRuns rs ++ [r] else dataRuns rs := by
  unfold dataRuns
  rw [afterLow_snoc]
  by_cases hnil : afterLow rs = [] <;> cases hl : r.level <;> simp [hnil, hl]

theorem dataRuns_eq_nil {rs : List Run} (h : afterLow rs = []) : dataRuns rs = [] := by
  rw [dataRuns, h, List.filter_nil]

/-- The first HIGH run after the first LOW run is none of the periods, every later one is. -/
theorem periodsIn_snoc (rs : List Run) (r : Run) :
    periodsIn (rs ++ [r]) =
      if r.level = .high ∧ dataRuns rs ≠ [] then periodsIn rs ++ [r.len] else periodsIn rs := by
  unfold periodsIn
  rw [dataRuns_snoc]
  by_cases hnil : dataRuns rs = []
  · simp only [hnil, ne_eq, not_true, and_false, if_false]
    split <;> rfl
  · have hpos := List.length_pos_of_ne_nil hnil
    have hlow := mt dataRuns_eq_nil hnil
    cases hl : r.level
    · simp [hnil]
    · simp [hnil, hlow, List.drop_append_of_le_length hpos]

end Sys2Proof.Machine

/-! PROOFS. What the block has recorded is the period sequence of its samples (R88, R89), by induction on
the samples: the pulse state is a summary of the runs so far. -/

namespace Sys2Proof.Machine

/-- The pulse state `q` after runs `init` and a current run: nothing but HIGH runs before it, a LOW run
first, then the sensor's response, then data (R74). -/
def PulseReads (init : List Run) (q : PState) : Prop :=
  match q with
  | .initialPullDown => afterLow init = []
  | .initialPullUp => dataRuns init = []
  | .dataFirstPullDown => afterLow init ≠ [] ∧ dataRuns init = []
  | .dataPullUp => dataRuns init ≠ []
  | .dataPullDown => dataRuns init ≠ []

/-- PCOUNT and P hold the periods `ns`, the count saturated at 41 and the first forty of them. -/
structure Recorded (ns : List Nat) (t : State) : Prop where
  pcount : t.pcount.toNat = min ns.length 41
  period : ∀ i < 40, (t.period? i).map BitVec.toNat = ns[i]?

/-- The block has seen the runs `init` and the samples so far of the run `r`. -/
structure Reads (init : List Run) (r : Run) (t : State) : Prop where
  phase : t.phase = .acquire ∨ t.phase = .decode
  lastv : t.lastv = true
  last : t.last = r.level
  unch : t.unch.toNat + 1 = r.len
  pulse : PulseReads init t.pstate
  recorded : Recorded (periodsIn init) t

/-! ### The recorded periods -/

theorem Recorded.congr {ns : List Nat} {s t : State} (h : Recorded ns s) (hcount : t.pcount = s.pcount)
    (hperiods : t.periods = s.periods) : Recorded ns t := by
  obtain ⟨hpcount, hperiod⟩ := h
  constructor
  · rw [hcount, hpcount]
  · simpa only [State.period?, hcount, hperiods] using hperiod

theorem Recorded.nil {s : State} (h : s.pcount = 0) : Recorded [] s where
  pcount := by simp [h]
  period := fun i _ => by rw [State.period?_of_ge (by simp [h])]; rfl

/-- Recording CNT appends its value. -/
theorem Recorded.record {ns : List Nat} {s : State} (h : Recorded ns s) :
    Recorded (ns ++ [s.cnt.toNat]) s.recordPeriod := by
  obtain ⟨hpcount, hperiod⟩ := h
  have hmax : s.pcount.toNat ≤ 41 := hpcount ▸ min_le_right _ _
  constructor
  · rw [State.recordPeriod_pcount_toNat hmax, hpcount, List.length_append, List.length_singleton]
    omega
  · intro i hi
    rw [State.recordPeriod_period? hmax hi]
    split
    case isTrue heq =>
      have hlen : i = ns.length := by omega
      rw [hlen, List.getElem?_concat_length]
      rfl
    case isFalse hne =>
      rw [hperiod i hi]
      obtain hlt | hgt : i < ns.length ∨ ns.length < i := by omega
      · rw [List.getElem?_append_left hlt]
      · rw [List.getElem?_eq_none (by omega), List.getElem?_eq_none (by simp; omega)]

/-! ### One sample -/

/-- The level of the current run: the one its pulse state does not wait for. -/
def runLevel (q : PState) : Level :=
  match q with
  | .initialPullDown => .high
  | .initialPullUp => .low
  | .dataFirstPullDown => .high
  | .dataPullUp => .low
  | .dataPullDown => .high

theorem pulseMove_runLevel (q : PState) : Claims.pulseMove q (runLevel q) = none := by cases q <;> rfl

theorem Inv.last_eq {s : State} (h : Inv s) (hv : s.lastv = true) : s.last = runLevel s.pstate := by
  have hpulse := h.pulse hv
  cases hq : s.pstate <;> simp only [hq] at hpulse <;> exact hpulse.1

section
variable {init : List Run} {r : Run} {q : PState} (h : PulseReads init q) (hr : r.level = runLevel q)
include h hr

/-- A sample that ends the current run moves the pulse state as the run list grows. -/
theorem PulseReads.change {l : Level} (hl : l ≠ runLevel q) :
    PulseReads (init ++ [r]) ((Claims.pulseMove q l).getD q) := by
  cases q with
  | initialPullDown =>
    cases l with
    | high => exact absurd rfl hl
    | low =>
      have hlow : afterLow init = [] := h
      simp [PulseReads, Claims.pulseMove, dataRuns_snoc, hlow, dataRuns_eq_nil hlow]
  | initialPullUp =>
    cases l with
    | low => exact absurd rfl hl
    | high =>
      have hdata : dataRuns init = [] := h
      have hlevel : r.level = .low := hr
      simp [PulseReads, Claims.pulseMove, dataRuns_snoc, afterLow_snoc, hdata, hlevel]
  | dataFirstPullDown =>
    cases l with
    | high => exact absurd rfl hl
    | low =>
      obtain ⟨hlow, -⟩ := h
      have hlevel : r.level = .high := hr
      simp [PulseReads, Claims.pulseMove, dataRuns_snoc, hlow, hlevel]
  | dataPullUp =>
    cases l with
    | low => exact absurd rfl hl
    | high =>
      have hdata : dataRuns init ≠ [] := h
      have hlevel : r.level = .low := hr
      simp [PulseReads, Claims.pulseMove, dataRuns_snoc, hdata, hlevel]
  | dataPullDown =>
    cases l with
    | high => exact absurd rfl hl
    | low =>
      have hlow : afterLow init ≠ [] := mt dataRuns_eq_nil h
      have hlevel : r.level = .high := hr
      simp [PulseReads, Claims.pulseMove, dataRuns_snoc, hlow, hlevel]

/-- The run that ends is a period exactly in state 5. -/
theorem PulseReads.period_iff : r.level = .high ∧ dataRuns init ≠ [] ↔ q = .dataPullDown := by
  cases q with
  | initialPullDown => simp [dataRuns_eq_nil h]
  | initialPullUp => simp [hr, runLevel]
  | dataFirstPullDown => simp [h.2]
  | dataPullUp => simp [hr, runLevel]
  | dataPullDown => exact iff_of_true ⟨hr, h⟩ rfl

end

theorem State.afterSample_phase_cases {s : State} (hp : s.phase = .acquire) (l : Level) :
    (s.afterSample l).phase = .acquire ∨ (s.afterSample l).phase = .decode := by
  simpa [hp] using phaseAfter_cases l s

/-- The first sample of a cycle begins the first run. -/
theorem Inv.reads_first {s : State} (h : Inv s) (hp : s.phase = .acquire) (hv : s.lastv = false)
    (l : Level) : Reads [] ⟨l, 1⟩ (s.afterSample l) := by
  obtain ⟨-, -, -, hcount, hq⟩ := h.fresh.1 hv
  refine ⟨State.afterSample_phase_cases hp l, s.afterSample_lastv l, s.afterSample_last l, ?unch,
    ?pulse, Recorded.nil ?pcount⟩
  case unch =>
    rw [State.afterSample_unch, idleAfter, if_pos (.inl hv)]
    rfl
  case pulse =>
    rw [State.afterSample_pstate, hq]
    cases l <;> rfl
  case pcount => rw [State.afterSample_pcount, if_neg (by simp [hq]), hcount]

section
variable {s : State} {init : List Run} {r : Run} (hr : Reads init r s) (h : Inv s)
  (hp : s.phase = .acquire)
include hr h

theorem Reads.level_eq : r.level = runLevel s.pstate := hr.last ▸ h.last_eq hr.lastv

include hp

/-- A sample of the level of the current run lengthens it. -/
theorem Reads.same : Reads init ⟨r.level, r.len + 1⟩ (s.afterSample r.level) := by
  have hlevel := hr.level_eq h
  have hskip : ¬(s.pstate = .dataPullDown ∧ r.level = .low) := by
    rintro ⟨hq, hl⟩
    rw [hq, hl] at hlevel
    cases hlevel
  refine ⟨State.afterSample_phase_cases hp _, s.afterSample_lastv _, s.afterSample_last _, ?unch,
    ?pulse, hr.recorded.congr ?pcount ?periods⟩
  case unch =>
    obtain ⟨hnew, -⟩ | ⟨-, -, hi⟩ := h.idleAfter_cases hp r.level
    · simp [hr.lastv, hr.last] at hnew
    · rw [State.afterSample_unch, hi, hr.unch]
  case pulse =>
    rw [State.afterSample_pstate, hlevel, pulseMove_runLevel]
    exact hr.pulse
  case pcount => rw [State.afterSample_pcount, if_neg hskip]
  case periods => rw [State.afterSample_periods, if_neg hskip]

/-- In state 5 the current run's length is one above CNT. -/
theorem Reads.cnt_succ (hq : s.pstate = .dataPullDown) : (s.cnt + 1).toNat = r.len := by
  have hpulse := h.pulse hr.lastv
  simp only [hq] at hpulse
  obtain ⟨-, hcnt⟩ := hpulse
  rw [h.cnt_succ hp, hcnt, hr.unch]

/-- A sample of the other level ends the current run, which is a period in state 5. -/
theorem Reads.change {l : Level} (hl : l ≠ r.level) :
    Reads (init ++ [r]) ⟨l, 1⟩ (s.afterSample l) := by
  have hlevel := hr.level_eq h
  have hmove : l ≠ runLevel s.pstate := hlevel ▸ hl
  refine ⟨State.afterSample_phase_cases hp l, s.afterSample_lastv l, s.afterSample_last l, ?unch,
    ?pulse, ?recorded⟩
  case unch =>
    rw [State.afterSample_unch, idleAfter, if_pos (.inr (hr.last ▸ hl))]
    rfl
  case pulse =>
    rw [State.afterSample_pstate]
    exact hr.pulse.change hlevel hmove
  case recorded =>
    have hcount := s.afterSample_pcount l
    have hperiods := s.afterSample_periods l
    rw [periodsIn_snoc]
    by_cases hq : s.pstate = .dataPullDown
    · have hlow : l = .low := by
        rw [hq] at hmove
        cases l with
        | low => rfl
        | high => exact absurd rfl hmove
      rw [if_pos ⟨hq, hlow⟩] at hcount hperiods
      rw [if_pos ((hr.pulse.period_iff hlevel).2 hq), ← hr.cnt_succ h hp hq]
      exact (Recorded.record (s := s.countSample) (hr.recorded.congr rfl rfl)).congr hcount hperiods
    · rw [if_neg fun hc => hq hc.1] at hcount hperiods
      rw [if_neg (mt (hr.pulse.period_iff hlevel).1 hq)]
      exact hr.recorded.congr hcount hperiods

end

/-! ### All samples -/

/-- What the samples `ls` taken from the start `s` of acquisition leave: their runs are read, and where
there is none the state is untouched. -/
def ReadsAll (s : State) (ls : List Level) (t : State) : Prop :=
  (ls = [] ∧ t = s) ∨ ∃ init r, runsOf ls = init ++ [r] ∧ Reads init r t

/-- A tick of ACQUIRE extends the samples read by one. -/
theorem ReadsAll.snoc {s t : State} {ls : List Level} (h : ReadsAll s ls t) (hinv : Inv t)
    (hp : t.phase = .acquire) (hv : s.lastv = false) (l : Level) :
    ReadsAll s (ls ++ [l]) (t.afterSample l) := by
  obtain ⟨rfl, rfl⟩ | ⟨init, r, hruns, hr⟩ := h
  · exact .inr ⟨[], ⟨l, 1⟩, rfl, hinv.reads_first hp hv l⟩
  · by_cases hl : l = r.level
    · exact .inr ⟨_, _, hl ▸ runsOf_snoc_same hruns, hl ▸ hr.same hinv hp⟩
    · exact .inr ⟨_, _, runsOf_snoc_change hruns hl, hr.change hinv hp hl⟩

section
variable {s t : State} {ls : List Level} (h : ReadsAll s ls t) (hinv : Inv t)
  (hp : s.phase = .acquire)
include h hinv

theorem ReadsAll.recorded (hv : s.lastv = false) : Recorded (periodsOf ls) t := by
  obtain ⟨rfl, rfl⟩ | ⟨init, r, hruns, hr⟩ := h
  · obtain ⟨-, -, -, hcount, -⟩ := hinv.fresh.1 hv
    exact Recorded.nil hcount
  · rw [periodsOf_eq, hruns, List.dropLast_concat]
    exact hr.recorded

include hp

/-- Acquisition goes on while the current run is within IDLE_BOUND. -/
theorem ReadsAll.acquire_iff (hinit : ∀ r ∈ (runsOf ls).dropLast, r.len ≤ t.params.idleBound) :
    t.phase = .acquire ↔ ∀ r ∈ runsOf ls, r.len ≤ t.params.idleBound := by
  obtain ⟨rfl, rfl⟩ | ⟨init, r, hruns, hr⟩ := h
  · exact iff_of_true hp nofun
  · rw [hruns, List.dropLast_concat] at hinit
    rw [hruns, List.forall_mem_append, List.forall_mem_singleton, ← hr.unch]
    obtain hph | hph := hr.phase
    · exact iff_of_true hph ⟨hinit, hinv.idle.2.1 hph⟩
    · exact iff_of_false (by simp [hph]) fun hall =>
        absurd (hinv.idle.2.2 hph) (Nat.ne_of_lt hall.2)

/-- It has ended when the current run has passed IDLE_BOUND. -/
theorem ReadsAll.decode_iff (hinit : ∀ r ∈ (runsOf ls).dropLast, r.len ≤ t.params.idleBound) :
    t.phase = .decode ↔ ∃ r ∈ runsOf ls, r.len = t.params.idleBound + 1 := by
  obtain ⟨rfl, rfl⟩ | ⟨init, r, hruns, hr⟩ := h
  · exact iff_of_false (by simp [hp]) nofun
  · rw [hruns, List.dropLast_concat] at hinit
    rw [hruns]
    constructor
    · exact fun hph => ⟨r, List.mem_append_right init List.mem_cons_self, by
        rw [← hr.unch, hinv.idle.2.2 hph]⟩
    · rintro ⟨q, hq, hlen⟩
      obtain hq | hq := List.mem_append.1 hq
      · exact absurd (hinit q hq) (by omega)
      · rw [List.mem_singleton.1 hq, ← hr.unch] at hlen
        refine hr.phase.resolve_left fun hph => ?_
        exact absurd (hinv.idle.2.1 hph) (by omega)

end

/-- From the start of acquisition, every sample is read, while none follows one that ends
acquisition. -/
theorem run_readsAll {s : State} (h : Inv s) (hp : s.phase = .acquire) (hv : s.lastv = false)
    (ps : List Pins) : ∀ rest : List Pins, AllTicks ps → s.pins = ps ++ rest →
    (∀ r ∈ (runsOf (ps.map Pins.din)).dropLast, r.len ≤ s.params.idleBound) →
    (∀ r ∈ runsOf (ps.map Pins.din), r.len ≤ s.params.idleBound + 1) →
    ∃ t : State, core.run ps.length s = .next t ∧ ReadsAll s (ps.map Pins.din) t ∧ Inv t ∧
      t.params = s.params ∧ t.pins = rest := by
  induction ps using List.reverseRecOn with
  | nil => exact fun rest _ hpins _ _ => ⟨s, rfl, .inl ⟨rfl, rfl⟩, h, rfl, hpins⟩
  | append_singleton ps p ih =>
    intro rest hticks hpins hinit hall
    obtain ⟨hticks, hlast⟩ := hticks.of_append
    obtain ⟨hr, ht⟩ := hlast p List.mem_cons_self
    rw [List.map_append, List.map_singleton] at hinit hall ⊢
    have hbound : ∀ q ∈ runsOf (ps.map Pins.din), q.len ≤ s.params.idleBound :=
      runsOf_bounds_snoc hinit hall
    obtain ⟨t, hrun, hreads, hinv, hparams, htail⟩ := ih (p :: rest) hticks (by simp [hpins])
      (fun q hq => hbound q (List.dropLast_subset _ hq)) fun q hq => Nat.le_succ_of_le (hbound q hq)
    have hacq : t.phase = .acquire :=
      (hreads.acquire_iff hinv hp fun q hq => hparams ▸ hbound q (List.dropLast_subset _ hq)).2
        fun q hq => hparams ▸ hbound q hq
    have hpin : t.nextPins = p := State.nextPins_cons htail
    have hstep := step_afterSample hacq (hpin ▸ hr) (hpin ▸ ht)
    rw [hpin] at hstep
    exact ⟨_, by rw [List.length_append]; exact core_run_snoc hrun hstep,
      hreads.snoc hinv hacq hv p.din, hinv.afterSample hacq _, by simp [hparams], by simp [htail]⟩

/-- Settles O25: all samples are read, and a reading holds the periods of its runs. -/
theorem machineRecordsThePeriodsOfTheSamples : Obligations.MachineRecordsThePeriodsOfTheSamples := by
  intro s ps rest h hp hv hticks hpins runs periods hinit hall
  obtain ⟨t, hrun, hreads, hinv, hparams, -⟩ := run_readsAll h hp hv ps rest hticks hpins hinit hall
  obtain ⟨hcount, hperiod⟩ := hreads.recorded hinv hv
  rw [← hparams] at hinit ⊢
  exact ⟨t, hrun, hcount, hperiod, hreads.decode_iff hinv hp hinit, hreads.acquire_iff hinv hp hinit⟩

end Sys2Proof.Machine

/-! PROOFS. A frame sent is the frame reported (R2, R42, R54): the runs of a well-formed read, the periods
among them, and the frame DECODE cuts from these. -/

namespace Sys2Proof.Machine

/-! ### The bits of a word, the most significant first -/

def bitsOf {n : Nat} (x : BitVec n) : List Bool := (List.range n).map x.getMsbD

@[simp] theorem bitsOf_length {n : Nat} (x : BitVec n) : (bitsOf x).length = n := by simp [bitsOf]

theorem bitsOf_getElem? {n i : Nat} (x : BitVec n) (hi : i < n) :
    (bitsOf x)[i]? = some (x.getMsbD i) := by
  simp [bitsOf, hi]

theorem bitsOf_append {n m : Nat} (x : BitVec n) (y : BitVec m) :
    bitsOf (x ++ y) = bitsOf x ++ bitsOf y := by
  rw [bitsOf, List.range_add, List.map_append, List.map_map]
  refine congrArg₂ _ (List.map_congr_left fun i hi => ?_) (List.map_congr_left fun i _ => ?_)
  · rw [BitVec.getMsbD_append, if_neg (Nat.not_le.2 (List.mem_range.1 hi))]
  · rw [Function.comp_apply, BitVec.getMsbD_append, if_pos (Nat.le_add_right n i),
      Nat.add_sub_cancel_left]

/-! ### The runs of a read -/

/-- The runs of the data bits `bs`: a LOW run before each, and a HIGH run of `sh` or `lg` samples. -/
def dataSignal (lo sh lg : Nat) (bs : List Bool) : List Run :=
  bs.flatMap fun b => bitRuns lo (if b then lg else sh)

theorem byteRuns_eq (v : Byte) (lo sh lg : Nat) :
    byteRuns v lo sh lg = dataSignal lo sh lg (bitsOf v) := rfl

theorem frameRuns_eq (b0 b1 b2 b3 b4 : Byte) (lo sh lg bound : Nat) :
    (Pseudo.frame5 b0 b1 b2 b3 b4 lo sh lg).runs bound =
      dataSignal lo sh lg (bitsOf (Claims.frameOf b0 b1 b2 b3 b4)) := by
  unfold Claims.frameOf
  simp only [bitsOf_append, dataSignal, List.flatMap_append]
  simp [Pseudo.runs, byteRuns_eq, dataSignal]

/-- The leading HIGH of `PRE`, which may be absent (R54). -/
def leadingHigh (a : Nat) : List Run := if a = 0 then [] else [⟨.high, a⟩]

/-- The runs of a read up to the idle line: the preamble, the data bits `bs` and the closing LOW. -/
def readRuns (a b c lo sh lg lo' : Nat) (bs : List Bool) : List Run :=
  leadingHigh a ++ ⟨.low, b⟩ :: ⟨.high, c⟩ :: (dataSignal lo sh lg bs ++ [⟨.low, lo'⟩])

theorem programSamples_read (bound a b c lo sh lg lo' : Nat) (b0 b1 b2 b3 b4 : Byte) :
    programSamples bound [.pre a b c, .frame5 b0 b1 b2 b3 b4 lo sh lg, .endLow lo', .idleH] =
      runSamples (readRuns a b c lo sh lg lo' (bitsOf (Claims.frameOf b0 b1 b2 b3 b4)) ++
        [⟨.high, bound + 1⟩]) := by
  have hpre : (Pseudo.pre a b c).runs bound = leadingHigh a ++ [⟨.low, b⟩, ⟨.high, c⟩] := by
    cases a <;> rfl
  rw [programSamples, List.flatMap_cons, List.flatMap_cons, hpre, frameRuns_eq]
  simp [readRuns, Pseudo.runs]

section
variable {a b c lo sh lg lo' n : Nat} {bs : List Bool}

theorem dataSignal_cons (d : Bool) (bs : List Bool) :
    dataSignal lo sh lg (d :: bs) =
      ⟨.low, lo⟩ :: ⟨.high, if d then lg else sh⟩ :: dataSignal lo sh lg bs := rfl

/-- The data bits and what follows them alternate in level, LOW first. -/
theorem maximalRuns_dataSignal (hlo : 1 ≤ lo) (hsh : 1 ≤ sh) (hlg : 1 ≤ lg) {rs : List Run}
    (hrs : MaximalRuns rs) (hhead : ∀ r ∈ rs.head?, r.level = .low) (bs : List Bool) :
    MaximalRuns (dataSignal lo sh lg bs ++ rs) ∧
      ∀ r ∈ (dataSignal lo sh lg bs ++ rs).head?, r.level = .low := by
  induction bs with
  | nil => exact ⟨hrs, hhead⟩
  | cons d bs ih =>
    obtain ⟨hmax, hlow⟩ := ih
    rw [dataSignal_cons]
    refine ⟨maximalRuns_cons.2 ⟨⟨by simp, hlo⟩, maximalRuns_cons.2 ⟨⟨fun r hr => ?_, ?_⟩, hmax⟩⟩,
      by simp⟩
    · simp [hlow r hr]
    · show 1 ≤ if d then lg else sh
      split <;> assumption

/-- The runs of a read are maximal. -/
theorem maximalRuns_read (hb : 1 ≤ b) (hc : 1 ≤ c) (hlo : 1 ≤ lo) (hsh : 1 ≤ sh) (hlg : 1 ≤ lg)
    (hlo' : 1 ≤ lo') (hn : 1 ≤ n) :
    MaximalRuns (readRuns a b c lo sh lg lo' bs ++ [⟨.high, n⟩]) := by
  have hend : MaximalRuns [⟨.low, lo'⟩, ⟨.high, n⟩] := ⟨by simp, by simp [hlo', hn]⟩
  obtain ⟨hdata, hhead⟩ := maximalRuns_dataSignal hlo hsh hlg hend (by simp) bs
  have hpre : MaximalRuns (⟨.low, b⟩ :: ⟨.high, c⟩ ::
      (dataSignal lo sh lg bs ++ [⟨.low, lo'⟩, ⟨.high, n⟩])) :=
    maximalRuns_cons.2 ⟨⟨by simp, hb⟩, maximalRuns_cons.2 ⟨⟨fun r hr => by simp [hhead r hr], hc⟩,
      hdata⟩⟩
  have hassoc : readRuns a b c lo sh lg lo' bs ++ [⟨.high, n⟩] =
      leadingHigh a ++ ⟨.low, b⟩ :: ⟨.high, c⟩ ::
        (dataSignal lo sh lg bs ++ [⟨.low, lo'⟩, ⟨.high, n⟩]) := by simp [readRuns]
  rw [hassoc, leadingHigh]
  split
  case isTrue => exact hpre
  case isFalse ha => exact maximalRuns_cons.2 ⟨⟨by simp, Nat.pos_of_ne_zero ha⟩, hpre⟩

/-- The HIGH runs of the data bits. -/
theorem dataSignal_high (bs : List Bool) :
    (dataSignal lo sh lg bs).filter (fun r => r.level == .high) =
      bs.map fun d => ⟨.high, if d then lg else sh⟩ := by
  induction bs with
  | nil => rfl
  | cons d bs ih => simp [dataSignal_cons, ih]

/-- The periods of a read are the widths of its data bits. -/
theorem periodsIn_read :
    periodsIn (readRuns a b c lo sh lg lo' bs) = bs.map fun d => if d then lg else sh := by
  have hlow : afterLow (readRuns a b c lo sh lg lo' bs) =
      ⟨.low, b⟩ :: ⟨.high, c⟩ :: (dataSignal lo sh lg bs ++ [⟨.low, lo'⟩]) := by
    unfold afterLow readRuns leadingHigh
    split <;> simp
  rw [periodsIn, dataRuns, hlow]
  simp [dataSignal_high]

/-- Every run of a read is within a bound that its lengths are within. -/
theorem readRuns_le (ha : a ≤ n) (hb : b ≤ n) (hc : c ≤ n) (hlo : lo ≤ n) (hsh : sh ≤ n)
    (hlg : lg ≤ n) (hlo' : lo' ≤ n) : ∀ r ∈ readRuns a b c lo sh lg lo' bs, r.len ≤ n := by
  have hlead : ∀ r ∈ leadingHigh a, r.len ≤ n := by
    unfold leadingHigh
    split <;> simp [ha]
  have hdata : ∀ r ∈ dataSignal lo sh lg bs, r.len ≤ n := by
    intro r hr
    obtain ⟨d, -, hd⟩ := List.mem_flatMap.1 hr
    obtain rfl | hd := List.mem_cons.1 hd
    · exact hlo
    · rw [List.mem_singleton.1 hd]
      show (if d then lg else sh) ≤ n
      split <;> assumption
  simp only [readRuns, List.forall_mem_append, List.forall_mem_cons]
  exact ⟨hlead, hb, hc, hdata, hlo', nofun⟩

end

/-! ### The frame cut from the widths of its bits -/

/-- The period of a bit. -/
def bitPeriod (sh lg : Nat) (d : Bool) : Period := BitVec.ofNat 16 (if d then lg else sh)

/-- Widths of two kinds, the shorter one among them, are told apart by the threshold (R100, R102). -/
theorem recordedFrame_of_widths {sh lg : Nat} (hlt : sh < lg) (hbits : lg < 2 ^ 16) {f : Frame}
    (hzero : ∃ i < 40, f.getMsbD i = false) :
    recordedFrame (fun i => bitPeriod sh lg (f.getMsbD i)) = f := by
  have hval (d : Bool) : (bitPeriod sh lg d).toNat = if d then lg else sh := by
    cases d
    · exact Nat.mod_eq_of_lt (hlt.trans hbits)
    · exact Nat.mod_eq_of_lt hbits
  have hmem {i : Nat} (hi : i < 40) : bitPeriod sh lg (f.getMsbD i) ∈
      recordedPeriods fun i => bitPeriod sh lg (f.getMsbD i) := mem_recordedPeriods.2 ⟨i, hi, rfl⟩
  have hne := recordedPeriods_ne_nil fun i => bitPeriod sh lg (f.getMsbD i)
  obtain ⟨i₀, hi₀, hz⟩ := hzero
  obtain ⟨j, -, hj⟩ := mem_recordedPeriods.1 (shortest_mem hne)
  obtain ⟨k, -, hk⟩ := mem_recordedPeriods.1 (longest_mem hne)
  have hshort := BitVec.le_def.1 (shortest_le (hmem hi₀))
  refine BitVec.eq_of_getMsbD_eq fun i hi => ?_
  have hlong := BitVec.le_def.1 (le_longest (hmem hi))
  have hbit := recordedFrame_getLsbD (fun i => bitPeriod sh lg (f.getMsbD i)) hi
  rw [BitVec.getMsbD_eq_getLsbD, decide_eq_true hi, Bool.true_and, hbit]
  rw [← hj, hval, hval, hz] at hshort
  rw [← hk, hval, hval] at hlong
  rw [← hj, ← hk, hval, hval, hval]
  have hleast : (if f.getMsbD j then lg else sh) = sh := by
    cases hb : f.getMsbD j
    · rfl
    · simp only [hb, if_true] at hshort
      exact absurd hshort (Nat.not_le.2 hlt)
  rw [hleast]
  cases hb : f.getMsbD i <;> simp only [hb, if_true] at hlong ⊢
  case false => exact decide_eq_false (by simp only [Bool.false_eq_true, if_false] at hlong ⊢; omega)
  case true => exact decide_eq_true (by split <;> omega)

theorem exists_zero_bit {f : Frame} (h : f ≠ BitVec.allOnes 40) : ∃ i < 40, f.getMsbD i = false := by
  by_contra hall
  refine h (BitVec.eq_of_getMsbD_eq fun i hi => ?_)
  have hone : f.getMsbD i = true := by
    by_contra hz
    exact hall ⟨i, hi, by simpa using hz⟩
  have hlast : 39 - i < 40 := by omega
  simp only [hone, BitVec.getMsbD_eq_getLsbD, BitVec.getLsbD_allOnes, hi, hlast, decide_true,
    Nat.reduceSub, Bool.and_self]

/-! ### The result -/

section
variable (b0 b1 b2 b3 b4 : Byte)

/-- BYTE[j] of five bytes sent is the j-th of them (R35). -/
theorem byteOf_frameOf :
    byteOf (Claims.frameOf b0 b1 b2 b3 b4) 0 = b0 ∧ byteOf (Claims.frameOf b0 b1 b2 b3 b4) 1 = b1 ∧
      byteOf (Claims.frameOf b0 b1 b2 b3 b4) 2 = b2 ∧
      byteOf (Claims.frameOf b0 b1 b2 b3 b4) 3 = b3 ∧
      byteOf (Claims.frameOf b0 b1 b2 b3 b4) 4 = b4 := by
  refine ⟨?_, ?_, ?_, ?_, ?_⟩ <;>
    simp (disch := omega) only [byteOf, Claims.frameOf, BitVec.extractLsb'_append_eq_of_le,
      BitVec.extractLsb'_append_eq_right, Nat.reduceMul, Nat.reduceSub,
      BitVec.extractLsb'_eq_self]

theorem csumOk_frameOf :
    csumOk (Claims.frameOf b0 b1 b2 b3 b4) = true ↔
      (b0.toNat + b1.toNat + b2.toNat + b3.toNat) % 256 = b4.toNat := by
  obtain ⟨h0, h1, h2, h3, h4⟩ := byteOf_frameOf b0 b1 b2 b3 b4
  rw [csumOk_iff_mod, h0, h1, h2, h3, h4]

end

/-- The end of a read of the frame `f`: forty periods, the widths of the bits of `f`, and DECODE next. -/
structure ReadDone (sh lg : Nat) (f : Frame) (t : State) : Prop where
  inv : Inv t
  phase : t.phase = .decode
  pcount : t.pcount.toNat = 40
  period : ∀ i < 40, t.periods.read i = some (bitPeriod sh lg (f.getMsbD i))

theorem ReadDone.of_recorded {sh lg : Nat} {f : Frame} {t : State} (hinv : Inv t)
    (hphase : t.phase = .decode)
    (h : Recorded ((bitsOf f).map fun d => if d then lg else sh) t) : ReadDone sh lg f t := by
  obtain ⟨hcount, hperiod⟩ := h
  have h40 : t.pcount.toNat = 40 := by simpa using hcount
  refine ⟨hinv, hphase, h40, fun i hi => ?_⟩
  have hi' := hperiod i hi
  rw [List.getElem?_map, bitsOf_getElem? f hi, Option.map_some, Option.map_eq_some_iff] at hi'
  obtain ⟨v, hv, hval⟩ := hi'
  rw [← State.period?_of_lt (h40 ▸ hi), hv, bitPeriod, ← hval, BitVec.ofNat_toNat, BitVec.setWidth_eq]

/-- The edge after a read delivers its frame. -/
theorem ReadDone.step {sh lg : Nat} {f : Frame} {t : State} (h : ReadDone sh lg f t) (hlt : sh < lg)
    (hbits : lg < 2 ^ 16) (hne : f ≠ BitVec.allOnes 40) (hr : t.nextPins.rst = false) :
    step t = .next (t.clockEdge.deliver f).complete := by
  have hframe := recordedFrame_of_widths hlt hbits (exists_zero_bit hne)
  have hexec := exec_decode_recorded (s := t.clockEdge) h.pcount h.period
  rw [hframe] at hexec
  exact (step_decode h.phase hr).trans hexec

/-- Settles O51: the samples are those of a list of maximal runs, whose periods are the widths of the
frame's bits. -/
theorem frameSentIsTheFrameReported : Obligations.FrameSentIsTheFrameReported := by
  intro s b0 b1 b2 b3 b4 a b c lo sh lg lo' ps rest q h hp hv ha ⟨hb1, hb⟩ ⟨hc1, hc⟩ ⟨hlo1, hlo⟩
    ⟨hsh1, hlt, hlg⟩ ⟨hlo1', hlo'⟩ hne hticks hq hpins hdin
  have hbound : s.params.idleBound < 2 ^ 7 := h.params.1.2
  rw [programSamples_read] at hdin
  have hruns := runsOf_runSamples (maximalRuns_read (a := a) (n := s.params.idleBound + 1)
    (bs := bitsOf (Claims.frameOf b0 b1 b2 b3 b4)) hb1 hc1 hlo1 hsh1 (hsh1.trans hlt.le) hlo1'
    (Nat.le_add_left 1 _))
  rw [← hdin] at hruns
  have hle := readRuns_le (bs := bitsOf (Claims.frameOf b0 b1 b2 b3 b4)) ha hb hc hlo
    (hlt.le.trans hlg) hlg hlo'
  have hinit : ∀ r ∈ (runsOf (ps.map Pins.din)).dropLast, r.len ≤ s.params.idleBound := by
    rw [hruns, List.dropLast_concat]
    exact hle
  have hall : ∀ r ∈ runsOf (ps.map Pins.din), r.len ≤ s.params.idleBound + 1 := by
    rw [hruns, List.forall_mem_append, List.forall_mem_singleton]
    exact ⟨fun r hr => Nat.le_succ_of_le (hle r hr), Nat.le_refl _⟩
  obtain ⟨t, hrun, hreads, hinv, hparams, htail⟩ :=
    run_readsAll h hp hv ps (q :: rest) hticks hpins hinit hall
  have hphase : t.phase = .decode := by
    rw [hreads.decode_iff hinv hp (hparams ▸ hinit), hruns, hparams]
    exact ⟨_, List.mem_append_right _ List.mem_cons_self, rfl⟩
  have hrec := hreads.recorded hinv hv
  rw [periodsOf_eq, hruns, List.dropLast_concat, periodsIn_read] at hrec
  have hpin : t.nextPins = q := State.nextPins_cons htail
  have hstep := (ReadDone.of_recorded hinv hphase hrec).step hlt (by omega) hne (hpin ▸ hq)
  obtain ⟨-, hhum, htemp, -⟩ := hinv.resultCleared (by simp [hphase])
  obtain ⟨hbyte0, -, hbyte2, -⟩ := byteOf_frameOf b0 b1 b2 b3 b4
  refine ⟨_, core_run_snoc hrun hstep, rfl, rfl, by simp, fun hsum => ?valid, fun hsum => ?invalid⟩
  case valid =>
    have hok := (csumOk_frameOf b0 b1 b2 b3 b4).2 hsum
    simp [State.valid, hok, hbyte0, hbyte2]
  case invalid =>
    have hbad := mt (csumOk_frameOf b0 b1 b2 b3 b4).1 hsum
    simp [State.valid, hbad, hhum, htemp]

end Sys2Proof.Machine
